-- ==== Sys2Proof/Word.lean ====
section
/-! DEFINITION. The word types of the wavelet image codec decoder (spec/00_scope.md R11): `uN` and `iN` are
both a pattern of N bits; the integer a signed pattern stands for is `BitVec.toInt`. -/

namespace Sys2Proof

/-- One byte of the input buffer (`20_memory.md` R60). -/
abbrev Byte := BitVec 8

/-- A 16-bit register or port. -/
abbrev U16 := BitVec 16

/-- A 32-bit register or port. -/
abbrev U32 := BitVec 32

/-- A coefficient, i16 two's complement (`00_scope.md` R8, COEF_BITS). -/
abbrev Coef := BitVec 16

end Sys2Proof
end

