-- ==== Sys2Proof/Config.lean ====
section
/-! DEFINITION. The constants of the hardware (spec/00_scope.md R8, R9) and the free values: constants with no
body, of which nothing can be proved, one for each value the spec leaves unstated. -/

namespace Sys2Proof.Config

/-- R8: most channels in a stream. -/
def maxChannels : Nat := 4
/-- R8: most wavelet levels per channel. -/
def maxWavelets : Nat := 3
/-- R8: most bands in one level. -/
def maxBands : Nat := 4
/-- R8: most coded subbands per channel. -/
def maxSubbands : Nat := 10
/-- R8: entries of the expansion table. -/
def logTableSize : Nat := 4096
/-- R8: bytes of the sequence identifier. -/
def seqIdBytes : Nat := 16
/-- R9, D3: largest n of one bit read. -/
def maxReadBits : Nat := 32
/-- R9, D4: longest zero run at the start of a code word. -/
def ueMaxZeros : Nat := 12
/-- R9, D21: largest bits-per-component. -/
def bpcMax : Nat := 16
/-- R196: largest lowpass precision. -/
def lowpassPrecisionMax : Nat := 16
/-- R9, D21: FORMAT_TAGS, the set of recognised format tags (the spec's default; log 14). -/
def formatTags : List Nat := [4]
/-- R36, D38: largest sample depth of a destination image. -/
def destDepthMax : Nat := 16

/-- FREE VALUE (log 9). The quotient `a / 0`: `00_scope.md` R12 defines the quotient for a positive divisor only,
and an image sink used outside DECODE divides by `HDR.patternWidth`, which may be 0. -/
opaque quotientByZero : Nat → Nat

/-- FREE VALUE (log 9). The remainder `a mod 0`, as `quotientByZero`. -/
opaque remainderByZero : Nat → Nat

/-- FREE VALUE (log 10). What a u16 destination sample holds after a value outside 0..65535 is sent to it; the
spec argues such a value cannot occur (`43_level.md` R180) and states no narrowing for samples. -/
opaque oversizeSample : Int → BitVec 16

end Sys2Proof.Config
end

