-- ==== Sys2Proof/Syntax.lean ====
section
/-! DEFINITION. The operations and stream words of spec/opcode_table.json, one constructor of `Instr` per row,
with the operand ports of spec/30_encoding.md R92 and the stream formats HDR, UE and TOK (R93 to R100). -/

namespace Sys2Proof

/-- A plane descriptor (`10_state.md` R33): a value, copying it copies no coefficient. `epoch` is the MODEL'S OWN
(log 22): how many RESETs came before the descriptor was made, so that one kept across a RESET is dead as
`70_reset_and_hazards.md` R257 asks. -/
structure Plane where
  buf : Option Nat
  base : Nat
  width : U16
  height : U16
  stride : U16
  owned : Bool
  epoch : Nat
  deriving DecidableEq, Repr

/-- The null descriptor (`10_state.md` R33): "buf = null and all numbers 0". -/
def Plane.null : Plane := ⟨none, 0, 0, 0, 0, false, 0⟩

/-- `LevelRef` (`30_encoding.md` R92): the pair (c, l) naming `CT[c].LV[l]`; wider than its legal range on purpose. -/
structure LevelRef where
  c : BitVec 8
  l : BitVec 8
  deriving DecidableEq, Repr

/-- A sink of LV.RECON (`43_level.md` R180). -/
inductive Sink where
  /-- into a coefficient plane -/
  | plane (p : Plane)
  /-- into the destination image, at the pattern cell of channel `c`; 8 bits, as the ports `c` of R92 (the spec gives
  this one no width: DESIGN CHOICE, log 15) -/
  | image (c : BitVec 8)
  deriving DecidableEq, Repr

/-- The handle of IN with IN_LEN (`30_encoding.md` R92): the byte range `[base, base + len)` of the host's memory. -/
structure InHandle where
  base : Nat
  len : Nat
  deriving DecidableEq, Repr

/-- The handle of DEST with W, H and DEPTH (`30_encoding.md` R92); `image` names the host's image. -/
structure DestHandle where
  image : Nat
  w : U16
  h : U16
  depth : Nat
  deriving DecidableEq, Repr

/-- The scalar fields of the stream header (`10_state.md` R27), in the order of `30_encoding.md` R93. -/
structure HdrFields where
  numChannels : U16
  numSubbands : U16
  numWavelets : U16
  imageWidth : U16
  imageHeight : U16
  patternWidth : U16
  patternHeight : U16
  formatTag : U16
  bitsPerComponent : U16
  lowpassPrecision : U16
  sequenceId : Vector Byte 16
  sequenceNumber : U32
  deriving DecidableEq, Repr

/-- All header fields 0 (`10_state.md` R40). -/
def HdrFields.zero : HdrFields :=
  ⟨0, 0, 0, 0, 0, 0, 0, 0, 0, 0, Vector.replicate 16 0, 0⟩

/-- A header as it stands in the stream (`30_encoding.md` R93): the fixed record and the quantization entries. -/
structure HeaderWord where
  fields : HdrFields
  quant : List U16
  deriving DecidableEq, Repr

/-- One field of a header as HDR.PARSE reads it (`44_channel_orchestrator.md` R195). -/
inductive HdrField where
  | numChannels
  | numSubbands
  | numWavelets
  | imageWidth
  | imageHeight
  | patternWidth
  | patternHeight
  | formatTag
  | bitsPerComponent
  | lowpassPrecision
  | sequenceId (k : Nat)
  | sequenceNumber
  | quant (s : Nat)
  deriving DecidableEq, Repr

/-- The formats of the stream (`30_encoding.md` R90 (b)). -/
inductive Format where
  | hdr
  | ue
  | tok
  deriving DecidableEq, Repr

/-- The operand ports (`30_encoding.md` R92): an operation takes the ports its row names and leaves the rest.
CONFIG's `c` and `l` are two bits wide where those of CT.LEVEL and CT.PRESCALE are eight, so they are ports of their
own; `in` and `dest` of CONSTRUCT, LV.DEQUANT and LV.RECON differ in type and are ports of their own. -/
structure Ports where
  input : InHandle
  dest : DestHandle
  configC : BitVec 2
  configL : BitVec 2
  prescale : BitVec 4
  offsetX : U16
  offsetY : U16
  n : Nat
  v : U32
  width : U16
  height : U16
  plane : Plane
  x : U16
  y : U16
  value : Coef
  x0 : U16
  y0 : U16
  w : U16
  h : U16
  lv : LevelRef
  numBands : Nat
  bandIndex : BitVec 8
  outPlane : Plane
  inPlane : Plane
  quant : U16
  sink : Sink
  clampToUnsigned : Bool
  c : BitVec 8
  l : BitVec 8
  deriving DecidableEq, Repr

/-- Every port 0. -/
def Ports.zero : Ports where
  input := ⟨0, 0⟩
  dest := ⟨0, 0, 0, 0⟩
  configC := 0
  configL := 0
  prescale := 0
  offsetX := 0
  offsetY := 0
  n := 0
  v := 0
  width := 0
  height := 0
  plane := Plane.null
  x := 0
  y := 0
  value := 0
  x0 := 0
  y0 := 0
  w := 0
  h := 0
  lv := ⟨0, 0⟩
  numBands := 0
  bandIndex := 0
  outPlane := Plane.null
  inPlane := Plane.null
  quant := 0
  sink := .plane Plane.null
  clampToUnsigned := false
  c := 0
  l := 0

/-- What can be presented to the machine (`10_state.md` R21, `60_exceptions.md` R236; log 1). -/
inductive Request where
  /-- a command of the host: a select code with its ports -/
  | host (code : BitVec 8) (ports : Ports)
  /-- an operation as the sequencer issues it to a unit -/
  | unit (code : BitVec 8) (ports : Ports)
  /-- the stream word of this format that stands at POS -/
  | stream (f : Format)
  deriving DecidableEq, Repr

/-- The 44 rows of spec/opcode_table.json. -/
inductive Instr where
  | reset
  | construct (input : InHandle) (dest : DestHandle)
  | config (c l : BitVec 2) (prescale : BitVec 4)
  | decode (offsetX offsetY : U16)
  | status
  | brRead (n : Nat)
  | brPeek (n : Nat)
  | brAtEnd
  | rlvDecode
  | logBuild
  | logDecode (v : U32)
  | plCreate (width height : U16)
  | plClear (plane : Plane)
  | plRead (plane : Plane) (x y : U16)
  | plWrite (plane : Plane) (x y : U16) (value : Coef)
  | plView (plane : Plane) (x0 y0 w h : U16)
  | lvInit (lv : LevelRef) (width height : U16) (numBands : Nat)
  | lvClear (lv : LevelRef)
  | lvSetValid (lv : LevelRef) (band : BitVec 8)
  | lvIsValid (lv : LevelRef) (band : BitVec 8)
  | lvAllValid (lv : LevelRef)
  | lvDequant (out inp : Plane) (quant : U16)
  | lvRecon (lv : LevelRef) (dest : Sink) (prescale : BitVec 4) (clamp : Bool)
  | lvBandPlane (lv : LevelRef) (band : BitVec 8)
  | ctLevel (c l : BitVec 8)
  | ctPrescale (c l : BitVec 8)
  | hdrParse
  | bandFill (lv : LevelRef) (band : BitVec 8)
  | hdr (h : HeaderWord)
  | ueZ0
  | ueZ1 (s : BitVec 1)
  | ueZ2 (s : BitVec 2)
  | ueZ3 (s : BitVec 3)
  | ueZ4 (s : BitVec 4)
  | ueZ5 (s : BitVec 5)
  | ueZ6 (s : BitVec 6)
  | ueZ7 (s : BitVec 7)
  | ueZ8 (s : BitVec 8)
  | ueZ9 (s : BitVec 9)
  | ueZ10 (s : BitVec 10)
  | ueZ11 (s : BitVec 11)
  | ueZ12 (s : BitVec 12)
  | ueMalformed
  | tok (run : Nat) (value : Int)
  deriving DecidableEq, Repr

end Sys2Proof
end

