-- ==== Sys2Proof/WellFormed.lean ====
section
/-! DEFINITION. Which terms of `Instr` an encoding of spec/30_encoding.md can carry. The ports of the commands
are typed, and an illegal value on one is an error the operation detects (R92), so only stream words have a check. -/

namespace Sys2Proof

/-- A token carries two UE values, 0 to 8190 each (`30_encoding.md` R97, R99). -/
abbrev Instr.tokenFits (run : Nat) (value : Int) : Prop := run ≤ 8190 ∧ value.natAbs ≤ 8190

/-- A header holds `numSubbands` quantization entries (`30_encoding.md` R93). -/
abbrev HeaderWord.wf (h : HeaderWord) : Prop := h.quant.length = h.fields.numSubbands.toNat

/-- The check: can an encoding carry this instruction? -/
def Instr.wellFormed : Instr → Bool
  | .hdr h => decide h.wf
  | .tok run value => decide (Instr.tokenFits run value)
  | _ => true

/-- An instruction an encoding can carry. -/
abbrev Instr.WellFormed (i : Instr) : Prop := i.wellFormed = true

end Sys2Proof
end

