-- ==== Sys2Proof/Decode.lean ====
section
/-! DEFINITION. Decoding (spec/30_encoding.md): select codes with their ports (R91, R92), and the stream formats
HDR (R93, R94), UE (R97, R98) and TOK (R99, R100), on any bits, rejecting by name; after it the encoder. -/

namespace Sys2Proof

/-- Why bits decode to no instruction (`30_encoding.md` R101). -/
inductive Reject where
  /-- a select code not in R91 -/
  | badCommand (code : BitVec 8)
  /-- a word cut off by the end of the bits -/
  | unterminated
  /-- a code word with thirteen leading zeros, inside a token -/
  | malformed
  deriving DecidableEq, Repr

/-! ## Bit strings -/

/-- The number whose bits, most significant first, are `bs` (`20_memory.md` R61). -/
def bitsToNat (bs : List Bool) : Nat := bs.foldl (fun v b => 2 * v + b.toNat) 0

/-- The low `n` bits of `v`, most significant first (`30_encoding.md` R103, `u<n> v`). -/
def natToBits : Nat → Nat → List Bool
  | 0, _ => []
  | n + 1, v => v.testBit n :: natToBits n v

/-- Read `n` bits most significant first onto `acc`; the value and the bits left. -/
def takeNat : Nat → Nat → List Bool → Except Reject (Nat × List Bool)
  | 0, acc, bs => .ok (acc, bs)
  | _ + 1, _, [] => .error .unterminated
  | n + 1, acc, b :: bs => takeNat n (2 * acc + b.toNat) bs

/-! ## Commands -/

/-- R91: the operation a select code names, its operands taken from their ports (R92). -/
def decodeCommand (code : BitVec 8) (p : Ports) : Except Reject Instr :=
  match code with
  | 0x00#8 => .ok .reset
  | 0x01#8 => .ok (.construct p.input p.dest)
  | 0x02#8 => .ok (.config p.configC p.configL p.prescale)
  | 0x03#8 => .ok (.decode p.offsetX p.offsetY)
  | 0x04#8 => .ok .status
  | 0x10#8 => .ok (.brRead p.n)
  | 0x11#8 => .ok (.brPeek p.n)
  | 0x12#8 => .ok .brAtEnd
  | 0x20#8 => .ok .rlvDecode
  | 0x30#8 => .ok .logBuild
  | 0x31#8 => .ok (.logDecode p.v)
  | 0x40#8 => .ok (.plCreate p.width p.height)
  | 0x41#8 => .ok (.plClear p.plane)
  | 0x42#8 => .ok (.plRead p.plane p.x p.y)
  | 0x43#8 => .ok (.plWrite p.plane p.x p.y p.value)
  | 0x44#8 => .ok (.plView p.plane p.x0 p.y0 p.w p.h)
  | 0x50#8 => .ok (.lvInit p.lv p.width p.height p.numBands)
  | 0x51#8 => .ok (.lvClear p.lv)
  | 0x52#8 => .ok (.lvSetValid p.lv p.bandIndex)
  | 0x53#8 => .ok (.lvIsValid p.lv p.bandIndex)
  | 0x54#8 => .ok (.lvAllValid p.lv)
  | 0x55#8 => .ok (.lvDequant p.outPlane p.inPlane p.quant)
  | 0x56#8 => .ok (.lvRecon p.lv p.sink p.prescale p.clampToUnsigned)
  | 0x57#8 => .ok (.lvBandPlane p.lv p.bandIndex)
  | 0x60#8 => .ok (.ctLevel p.c p.l)
  | 0x61#8 => .ok (.ctPrescale p.c p.l)
  | 0x70#8 => .ok .hdrParse
  | 0x71#8 => .ok (.bandFill p.lv p.bandIndex)
  | code => .error (.badCommand code)

/-! ## Code words (R97, R98) -/

/-- The zero run of a code word and the 1 that ends it; `left` more zeros are allowed. -/
def codeZeros : Nat → Nat → List Bool → Except Reject (Nat × List Bool)
  | _, _, [] => .error .unterminated
  | _, z, true :: bs => .ok (z, bs)
  | 0, _, false :: _ => .error .malformed
  | left + 1, z, false :: bs => codeZeros left (z + 1) bs

/-- A code word: its zero count, its suffix and the bits left. -/
def decodeCode (bs : List Bool) : Except Reject (Nat × Nat × List Bool) :=
  match codeZeros Config.ueMaxZeros 0 bs with
  | .error e => .error e
  | .ok (z, bs) =>
    match takeNat z 0 bs with
    | .error e => .error e
    | .ok (suffix, bs) => .ok (z, suffix, bs)

/-- The value of a code word (R97). -/
def codeValue (z suffix : Nat) : Nat := 2 ^ z - 1 + suffix

/-- The row of R98 for a zero count, with its suffix. -/
def codeInstr (z suffix : Nat) : Instr :=
  match z with
  | 0 => .ueZ0
  | 1 => .ueZ1 (BitVec.ofNat 1 suffix)
  | 2 => .ueZ2 (BitVec.ofNat 2 suffix)
  | 3 => .ueZ3 (BitVec.ofNat 3 suffix)
  | 4 => .ueZ4 (BitVec.ofNat 4 suffix)
  | 5 => .ueZ5 (BitVec.ofNat 5 suffix)
  | 6 => .ueZ6 (BitVec.ofNat 6 suffix)
  | 7 => .ueZ7 (BitVec.ofNat 7 suffix)
  | 8 => .ueZ8 (BitVec.ofNat 8 suffix)
  | 9 => .ueZ9 (BitVec.ofNat 9 suffix)
  | 10 => .ueZ10 (BitVec.ofNat 10 suffix)
  | 11 => .ueZ11 (BitVec.ofNat 11 suffix)
  | 12 => .ueZ12 (BitVec.ofNat 12 suffix)
  | _ => .ueMalformed

/-- A word of format UE: a code word, or the thirteen zeros of `UE.malformed`. -/
def decodeUe (bs : List Bool) : Except Reject (Instr × List Bool) :=
  match decodeCode bs with
  | .ok (z, suffix, bs) => .ok (codeInstr z suffix, bs)
  | .error .malformed => .ok (.ueMalformed, bs.drop (Config.ueMaxZeros + 1))
  | .error e => .error e

/-! ## Tokens (R99, R100) -/

/-- A word of format TOK: two code words and, when the magnitude is not 0, a sign bit. -/
def decodeTok (bs : List Bool) : Except Reject (Instr × List Bool) :=
  match decodeCode bs with
  | .error e => .error e
  | .ok (zr, sr, bs) =>
    match decodeCode bs with
    | .error e => .error e
    | .ok (zm, sm, bs) =>
      if codeValue zm sm = 0 then .ok (.tok (codeValue zr sr) 0, bs)
      else
        match bs with
        | [] => .error .unterminated
        | sign :: bs =>
          .ok (.tok (codeValue zr sr) (if sign then -(codeValue zm sm : Int) else codeValue zm sm), bs)

/-! ## The stream header (R93, R94) -/

/-- `count` fields of `width` bits each. -/
def takeFields (width : Nat) : Nat → List Bool → Except Reject (List Nat × List Bool)
  | 0, bs => .ok ([], bs)
  | count + 1, bs =>
    match takeNat width 0 bs with
    | .error e => .error e
    | .ok (v, bs) =>
      match takeFields width count bs with
      | .error e => .error e
      | .ok (vs, bs) => .ok (v :: vs, bs)

/-- The header record from its ten scalar fields, sixteen identifier bytes and sequence number. -/
def headerFields (scalars ids : List Nat) (number : Nat) : HdrFields where
  numChannels := BitVec.ofNat 16 (scalars.getD 0 0)
  numSubbands := BitVec.ofNat 16 (scalars.getD 1 0)
  numWavelets := BitVec.ofNat 16 (scalars.getD 2 0)
  imageWidth := BitVec.ofNat 16 (scalars.getD 3 0)
  imageHeight := BitVec.ofNat 16 (scalars.getD 4 0)
  patternWidth := BitVec.ofNat 16 (scalars.getD 5 0)
  patternHeight := BitVec.ofNat 16 (scalars.getD 6 0)
  formatTag := BitVec.ofNat 16 (scalars.getD 7 0)
  bitsPerComponent := BitVec.ofNat 16 (scalars.getD 8 0)
  lowpassPrecision := BitVec.ofNat 16 (scalars.getD 9 0)
  sequenceId := Vector.ofFn fun k => BitVec.ofNat 8 (ids.getD k.val 0)
  sequenceNumber := BitVec.ofNat 32 number

/-- A word of format HDR. -/
def decodeHdr (bs : List Bool) : Except Reject (Instr × List Bool) :=
  match takeFields 16 10 bs with
  | .error e => .error e
  | .ok (scalars, bs) =>
    match takeFields 8 Config.seqIdBytes bs with
    | .error e => .error e
    | .ok (ids, bs) =>
      match takeNat 32 0 bs with
      | .error e => .error e
      | .ok (number, bs) =>
        match takeFields 16 (headerFields scalars ids number).numSubbands.toNat bs with
        | .error e => .error e
        | .ok (quant, bs) => .ok (.hdr ⟨headerFields scalars ids number, quant.map (BitVec.ofNat 16)⟩, bs)

/-- The stream word of a format at the head of `bs`, and the bits after it. -/
def decodeStream (f : Format) (bs : List Bool) : Except Reject (Instr × List Bool) :=
  match f with
  | .hdr => decodeHdr bs
  | .ue => decodeUe bs
  | .tok => decodeTok bs

/-! ## The encoder -/

/-- An encoded instruction: a select code with its ports, or the bits of a stream word. -/
inductive Encoded where
  | command (code : BitVec 8) (ports : Ports)
  | stream (f : Format) (bits : List Bool)
  deriving DecidableEq, Repr

/-- The bits of the code word with `z` zeros (R97). -/
def codeBits (z suffix : Nat) : List Bool := List.replicate z false ++ true :: natToBits z suffix

/-- The bits of the code word of a value (R97): z = floor(log2(v + 1)). -/
def valueBits (v : Nat) : List Bool := codeBits (v + 1).log2 (v + 1 - 2 ^ (v + 1).log2)

/-- The bits of a token (R99, R100). -/
def tokenBits (run : Nat) (value : Int) : List Bool :=
  valueBits run ++ valueBits value.natAbs ++ if value = 0 then [] else [decide (value < 0)]

/-- The bits of a header (R93). -/
def headerBits (h : HeaderWord) : List Bool :=
  natToBits 16 h.fields.numChannels.toNat ++
  natToBits 16 h.fields.numSubbands.toNat ++
  natToBits 16 h.fields.numWavelets.toNat ++
  natToBits 16 h.fields.imageWidth.toNat ++
  natToBits 16 h.fields.imageHeight.toNat ++
  natToBits 16 h.fields.patternWidth.toNat ++
  natToBits 16 h.fields.patternHeight.toNat ++
  natToBits 16 h.fields.formatTag.toNat ++
  natToBits 16 h.fields.bitsPerComponent.toNat ++
  natToBits 16 h.fields.lowpassPrecision.toNat ++
  h.fields.sequenceId.toList.flatMap (fun b => natToBits 8 b.toNat) ++
  natToBits 32 h.fields.sequenceNumber.toNat ++
  h.quant.flatMap (fun q => natToBits 16 q.toNat)

/-- The encoding of an instruction: R91 and R92 for the commands, R93 to R100 for the stream words. -/
def encode : Instr → Encoded
  | .reset => .command 0x00 Ports.zero
  | .construct input dest => .command 0x01 { Ports.zero with input, dest }
  | .config c l prescale => .command 0x02 { Ports.zero with configC := c, configL := l, prescale }
  | .decode offsetX offsetY => .command 0x03 { Ports.zero with offsetX, offsetY }
  | .status => .command 0x04 Ports.zero
  | .brRead n => .command 0x10 { Ports.zero with n }
  | .brPeek n => .command 0x11 { Ports.zero with n }
  | .brAtEnd => .command 0x12 Ports.zero
  | .rlvDecode => .command 0x20 Ports.zero
  | .logBuild => .command 0x30 Ports.zero
  | .logDecode v => .command 0x31 { Ports.zero with v }
  | .plCreate width height => .command 0x40 { Ports.zero with width, height }
  | .plClear plane => .command 0x41 { Ports.zero with plane }
  | .plRead plane x y => .command 0x42 { Ports.zero with plane, x, y }
  | .plWrite plane x y value => .command 0x43 { Ports.zero with plane, x, y, value }
  | .plView plane x0 y0 w h => .command 0x44 { Ports.zero with plane, x0, y0, w, h }
  | .lvInit lv width height numBands => .command 0x50 { Ports.zero with lv, width, height, numBands }
  | .lvClear lv => .command 0x51 { Ports.zero with lv }
  | .lvSetValid lv band => .command 0x52 { Ports.zero with lv, bandIndex := band }
  | .lvIsValid lv band => .command 0x53 { Ports.zero with lv, bandIndex := band }
  | .lvAllValid lv => .command 0x54 { Ports.zero with lv }
  | .lvDequant out inp quant => .command 0x55 { Ports.zero with outPlane := out, inPlane := inp, quant }
  | .lvRecon lv dest prescale clamp =>
    .command 0x56 { Ports.zero with lv, sink := dest, prescale, clampToUnsigned := clamp }
  | .lvBandPlane lv band => .command 0x57 { Ports.zero with lv, bandIndex := band }
  | .ctLevel c l => .command 0x60 { Ports.zero with c, l }
  | .ctPrescale c l => .command 0x61 { Ports.zero with c, l }
  | .hdrParse => .command 0x70 Ports.zero
  | .bandFill lv band => .command 0x71 { Ports.zero with lv, bandIndex := band }
  | .hdr h => .stream .hdr (headerBits h)
  | .ueZ0 => .stream .ue (codeBits 0 0)
  | .ueZ1 s => .stream .ue (codeBits 1 s.toNat)
  | .ueZ2 s => .stream .ue (codeBits 2 s.toNat)
  | .ueZ3 s => .stream .ue (codeBits 3 s.toNat)
  | .ueZ4 s => .stream .ue (codeBits 4 s.toNat)
  | .ueZ5 s => .stream .ue (codeBits 5 s.toNat)
  | .ueZ6 s => .stream .ue (codeBits 6 s.toNat)
  | .ueZ7 s => .stream .ue (codeBits 7 s.toNat)
  | .ueZ8 s => .stream .ue (codeBits 8 s.toNat)
  | .ueZ9 s => .stream .ue (codeBits 9 s.toNat)
  | .ueZ10 s => .stream .ue (codeBits 10 s.toNat)
  | .ueZ11 s => .stream .ue (codeBits 11 s.toNat)
  | .ueZ12 s => .stream .ue (codeBits 12 s.toNat)
  | .ueMalformed => .stream .ue (List.replicate (Config.ueMaxZeros + 1) false)
  | .tok run value => .stream .tok (tokenBits run value)

/-- Decoding an encoded instruction; bits after a stream word are not looked at. -/
def decode : Encoded → Except Reject Instr
  | .command code ports => decodeCommand code ports
  | .stream f bits => (decodeStream f bits).map Prod.fst

/-! ## Words as spec/opcode_table.json numbers them -/

/-- The stream bits of a UE row given as a number (the table reads a code word as one number, so the zeros before
its 1 do not show in it): 2 * floor(log2 w) + 1 bits, or the thirteen zeros of `UE.malformed` (log 3). -/
def codeWordBits (w : Nat) : List Bool :=
  if w = 0 then List.replicate (Config.ueMaxZeros + 1) false else natToBits (2 * w.log2 + 1) w

/-- The bytes of a word of `n` bytes, the first in its low eight bits, as stream bits. -/
def wordBytesBits : Nat → Nat → List Bool
  | 0, _ => []
  | n + 1, w => natToBits 8 (w % 256) ++ wordBytesBits n (w / 256)

/-- How a word of the table is presented (log 3): a byte that is a select code is a command, of the host where the
host issues it (R91) and of the sequencer otherwise; at least 320 bits are a header; all else is a code word. -/
def tableRequest (nbits w : Nat) : Request :=
  if nbits = 8 ∧ w < 256 ∧ (decodeCommand (BitVec.ofNat 8 w) Ports.zero).isOk then
    if w ≤ 0x04 then .host (BitVec.ofNat 8 w) Ports.zero else .unit (BitVec.ofNat 8 w) Ports.zero
  else if 320 ≤ nbits then .stream .hdr
  else .stream .ue

/-- The stream bits of a word of the table that is no command. -/
def tableBits (nbits w : Nat) : List Bool :=
  if 320 ≤ nbits then wordBytesBits (nbits / 8) w else codeWordBits w

/-- The instruction the decoder reads from a word of spec/opcode_table.json (log 3). -/
def decodeTableWord (nbits w : Nat) : Option Instr :=
  match tableRequest nbits w with
  | .host code ports => (decodeCommand code ports).toOption
  | .unit code ports => (decodeCommand code ports).toOption
  | .stream f => ((decodeStream f (tableBits nbits w)).map Prod.fst).toOption

end Sys2Proof
end

