-- ==== Sys2Proof/Machine/State.lean ====
section
/-! DEFINITION. The state of the decoder (spec/10_state.md R20 to R40) as plain data, the reasons a step can
stop, and the state after reset. -/

namespace Sys2Proof.Machine

/-- SESS (R23). Codes 5 to 7 never occur, so the type leaves them out (`93_implementation_defined.md` U16). -/
inductive Sess where
  | idle
  | ready
  | running
  | done
  | faulted
  deriving DecidableEq, Repr

/-- The phase of SEQ (R24). -/
inductive Phase where
  | hdr
  | fill
  | deq
  | recon
  | fin
  deriving DecidableEq, Repr

/-- SEQ, the sequencer position (R24). -/
structure Seq where
  phase : Phase
  c : BitVec 2
  l : BitVec 2
  b : BitVec 2
  idx : U32
  deriving DecidableEq, Repr

/-- (HDR, 0, 0, 0, 0) (R24, R40). -/
def Seq.reset : Seq := ⟨.hdr, 0, 0, 0, 0⟩

/-- ERR, the error register (R26). -/
structure Err where
  kind : BitVec 3
  cause : BitVec 8
  info : U32
  deriving DecidableEq, Repr

/-- No error recorded (R26, R40). -/
def Err.none : Err := ⟨0, 0, 0⟩

/-- The causes of an error (`60_exceptions.md` R221). -/
inductive Cause where
  | channelCount
  | subbandCount
  | waveletCount
  | subbandLevelMismatch
  | imageWidth
  | imageHeight
  | patternWidth
  | patternHeight
  | patternChannels
  | formatTag
  | bitsPerComponent
  | lowpassPrecision
  | readerOverrun
  | malformedCode
  | logIndex
  | runOverflow
  | bandsNotValid
  | badCommand
  | sessionState
  | badBitCount
  | badDimensions
  | planeBounds
  | danglingView
  | planeMismatch
  | levelIndex
  | levelState
  | badBandCount
  | bandIndex
  | sinkMode
  | destRegion
  | badDest
  deriving DecidableEq, Repr

/-- A band of a level (R32): its plane and its quantization value. -/
structure Band where
  plane : Plane
  quant : U16
  deriving DecidableEq, Repr

/-- A band after reset (R40). -/
def Band.reset : Band := ⟨Plane.null, 0⟩

/-- A wavelet level (R32). -/
structure Level where
  init : Bool
  width : U16
  height : U16
  stride : U16
  numBands : BitVec 3
  valid : BitVec 4
  band : Vector Band 4
  deriving DecidableEq, Repr

/-- A level after reset (R40): uninitialized. -/
def Level.reset : Level := ⟨false, 0, 0, 0, 0, 0, Vector.replicate 4 Band.reset⟩

/-- A channel transform (R29, R31): its levels, the finest at index 0, and one prescale register per level. -/
structure Channel where
  lv : Vector Level 3
  prescale : Vector (BitVec 4) 3
  deriving DecidableEq, Repr

/-- A channel transform after reset (R40). -/
def Channel.reset : Channel := ⟨Vector.replicate 3 Level.reset, Vector.replicate 3 0⟩

/-- Cells of `n` bits by address, in ONE canonical form (`Cells.wf`): addresses strictly rising, no cell 0. An
address with no cell reads 0 (IN: log 5, DEST: log 6; a created plane is zero-filled, `42_plane.md` R151). -/
abbrev Cells (n : Nat) := List (Nat × BitVec n)

/-- The host's byte memory, a list of `Host.Cell`. -/
abbrev Memory := Cells 8

/-- The canonical form of a memory. -/
abbrev Cells.wf {n : Nat} (m : Cells n) : Prop :=
  m.Pairwise (fun a b => a.1 < b.1) ∧ ∀ c ∈ m, c.2 ≠ 0#n

/-- The canonical form of the byte memory. -/
abbrev Memory.wf (m : Memory) : Prop := Cells.wf m

/-- One array of BUF (R34): `len` elements, those not listed 0. -/
structure Buffer where
  len : Nat
  cells : Cells 16
  deriving DecidableEq, Repr

/-- What CONSTRUCT binds (`44_channel_orchestrator.md` R193): the byte range IN and the image DEST. -/
structure Binding where
  input : InHandle
  dest : DestHandle
  deriving DecidableEq, Repr

/-- What STATUS shows (`44_channel_orchestrator.md` R207). -/
structure StatusPorts where
  state : BitVec 3
  kind : BitVec 3
  cause : BitVec 8
  info : U32
  pos : Nat
  hdr : HdrFields
  quant : Vector U16 10
  deriving DecidableEq, Repr

/-- The result ports (`30_encoding.md` R92) at the end of the last operation; `none` where it has no result
(log 13). -/
inductive Result where
  | none
  | status (p : StatusPorts)
  /-- BR.READ, BR.PEEK -/
  | bits (value : U32)
  | atEnd (atEnd : Bool) (remaining : Nat)
  /-- RLV.DECODE, and a token word -/
  | token (run : Nat) (value : Int)
  /-- a code word of format UE -/
  | code (value : Nat)
  | expanded (result : Int)
  /-- PL.CREATE, PL.VIEW, LV.BANDPLANE -/
  | plane (p : Plane)
  | coef (value : Coef)
  /-- LV.ISVALID, LV.ALLVALID -/
  | flag (b : Bool)
  | level (lv : LevelRef)
  | prescale (p : BitVec 4)
  deriving DecidableEq, Repr

/-- The whole state. -/
structure State where
  /-- SESS (R23) -/
  sess : Sess
  /-- POS (R24) -/
  pos : Nat
  /-- SEQ (R24) -/
  seq : Seq
  /-- ERR (R26) -/
  err : Err
  /-- HDR (R27) -/
  hdr : HdrFields
  /-- QUANT (R28) -/
  quant : Vector U16 10
  /-- CT and PRESCALE (R29, R31, R32) -/
  ct : Vector Channel 4
  /-- LOGT (R30) -/
  logt : List Coef
  /-- LOGT_VALID (R25) -/
  logtValid : Bool
  /-- BUF (R34), ids strictly rising -/
  bufs : List (Nat × Buffer)
  /-- NEXT_BUF (R34) -/
  nextBuf : Nat
  /-- OFFX (R37) -/
  offx : U16
  /-- OFFY (R37) -/
  offy : U16
  /-- the binding to IN and DEST (R20, R40) -/
  binding : Option Binding
  /-- the host's byte memory, which holds IN (R35) -/
  mem : Memory
  /-- the host's samples, which hold DEST (R36) -/
  dest : Cells 16
  /-- MODEL'S OWN: the number of RESETs so far, which new descriptors carry (log 22) -/
  epoch : Nat
  /-- MODEL'S OWN: the result ports (log 13) -/
  result : Result
  /-- MODEL'S OWN: the requests still to be presented (log 1) -/
  inbox : List Request
  deriving DecidableEq, Repr

/-- Where the machine stops without a next state: nowhere. Every rule gives a value or an error, and an error is the
FAULTED state (`70_reset_and_hazards.md` R260; `93_implementation_defined.md`: "stuck (not used in this spec: no rule
leaves the hardware without a next state)"). So no constructor is listed. -/
inductive Fault where
  deriving DecidableEq, Repr

/-- Why an instruction has no meaning. -/
inductive Refusal where
  /-- Raised by an arm of `exec` whose instruction is not modelled yet; no arm is. Safe: the model stops. -/
  | notModelled (mnemonic : String)
  deriving DecidableEq, Repr

/-- Why an operation ends early: an error was raised (`60_exceptions.md` R224). -/
inductive Stop where
  | raised
  deriving DecidableEq, Repr

/-- The machine right after reset (R40, `70_reset_and_hazards.md` R250, R251). LOGT is log 11, `mem` log 5,
`dest` log 6, `epoch` log 22, `result` log 13, `inbox` log 1. -/
def State.reset : State where
  sess := .idle
  pos := 0
  seq := Seq.reset
  err := Err.none
  hdr := HdrFields.zero
  quant := Vector.replicate 10 0
  ct := Vector.replicate 4 Channel.reset
  logt := List.replicate Config.logTableSize 0
  logtValid := false
  bufs := []
  nextBuf := 0
  offx := 0
  offy := 0
  binding := none
  mem := []
  dest := []
  epoch := 0
  result := .none
  inbox := []

end Sys2Proof.Machine
end

