-- ==== Sys2Proof/Machine/Ops.lean ====
section
/-! DEFINITION. The named operations over registers and memory: taking an error (spec/60_exceptions.md R224), the
sequential composition of operations, memory cells, coefficient buffers, levels and the bit reader. -/

namespace Sys2Proof.Machine

/-! ## Taking an error -/

/-- The code of a session state (`10_state.md` R23). -/
def sessCode : Sess → BitVec 3
  | .idle => 0
  | .ready => 1
  | .running => 2
  | .done => 3
  | .faulted => 4

/-- The cause code (`60_exceptions.md` R221). -/
def causeCode : Cause → BitVec 8
  | .channelCount => 0x01
  | .subbandCount => 0x02
  | .waveletCount => 0x03
  | .subbandLevelMismatch => 0x04
  | .imageWidth => 0x05
  | .imageHeight => 0x06
  | .patternWidth => 0x07
  | .patternHeight => 0x08
  | .patternChannels => 0x09
  | .formatTag => 0x0A
  | .bitsPerComponent => 0x0B
  | .lowpassPrecision => 0x0C
  | .readerOverrun => 0x20
  | .malformedCode => 0x21
  | .logIndex => 0x22
  | .runOverflow => 0x23
  | .bandsNotValid => 0x30
  | .badCommand => 0x40
  | .sessionState => 0x41
  | .badBitCount => 0x42
  | .badDimensions => 0x43
  | .planeBounds => 0x44
  | .danglingView => 0x45
  | .planeMismatch => 0x46
  | .levelIndex => 0x47
  | .levelState => 0x48
  | .badBandCount => 0x49
  | .bandIndex => 0x4A
  | .sinkMode => 0x4B
  | .destRegion => 0x4C
  | .badDest => 0x4D

/-- The kind of a cause (`60_exceptions.md` R220, R221): 1 UnsupportedStream, 2 CorruptBitstream,
3 SequencingViolation, 4 ContractViolation. -/
def causeKind : Cause → BitVec 3
  | .channelCount | .subbandCount | .waveletCount | .subbandLevelMismatch | .imageWidth | .imageHeight
  | .patternWidth | .patternHeight | .patternChannels | .formatTag | .bitsPerComponent | .lowpassPrecision => 1
  | .readerOverrun | .malformedCode | .logIndex | .runOverflow => 2
  | .bandsNotValid => 3
  | .badCommand | .sessionState | .badBitCount | .badDimensions | .planeBounds | .danglingView | .planeMismatch
  | .levelIndex | .levelState | .badBandCount | .bandIndex | .sinkMode | .destRegion | .badDest => 4

/-- The state part of `raise` (`60_exceptions.md` R224): ERR and SESS change, and only when the session is not
FAULTED already; no state is saved, no vector fetched, no mode changed. There is no return from an error (R227). -/
def takeError (c : Cause) (info : Nat) (s : State) : State :=
  if s.sess = .faulted then s
  else { s with err := ⟨causeKind c, causeCode c, BitVec.ofNat 32 info⟩, sess := .faulted }

/-- An operation of a unit: it gives a value and a next state, or stops early with the state it had reached. -/
abbrev Op (α : Type) := EStateM Stop State α

/-- `raise Kind(cause, info)` (`60_exceptions.md` R224): the operation and all that invoked it are abandoned,
every write made before stays made. -/
def raise {α : Type} (c : Cause) (info : Nat) : Op α := fun s => .error .raised (takeError c info s)

/-- A check of the pseudocode: `if p: raise Kind(cause, info)`. -/
def failIf (p : Prop) [Decidable p] (c : Cause) (info : Nat) : Op Unit :=
  if p then raise c info else pure ()

/-- An operation as an instruction: it completes with its results on the result ports, or the raised error ends it
with none (`10_state.md` R22; log 13). -/
def finish (op : Op Result) (s : State) : Host.Outcome State Fault Refusal :=
  match op s with
  | .ok r s' => .next { s' with result := r }
  | .error .raised s' => .next { s' with result := .none }

/-- An operation without results. -/
def finishUnit (op : Op Unit) (s : State) : Host.Outcome State Fault Refusal :=
  finish (op >>= fun _ => pure .none) s

/-! ## Loops of the pseudocode -/

/-- `for i in start .. start + n - 1: f i`. -/
def forFrom (start : Nat) : Nat → (Nat → Op Unit) → Op Unit
  | 0, _ => pure ()
  | n + 1, f => do
    f start
    forFrom (start + 1) n f

/-- `[f i for i in start .. start + n - 1]`, evaluated in that order. -/
def mapFrom {α : Type} (start : Nat) : Nat → (Nat → Op α) → Op (List α)
  | 0, _ => pure []
  | n + 1, f => do
    let a ← f start
    let as ← mapFrom (start + 1) n f
    pure (a :: as)

/-! ## Arithmetic of the notation (`00_scope.md` R12) -/

/-- `a >> n`, the floor of `a / 2^n` for any sign of `a`. -/
def asr (a : Int) (n : Nat) : Int := a / 2 ^ n

/-- `clamp(v, lo, hi)`. -/
def clampInt (v lo hi : Int) : Int := max lo (min v hi)

/-- NARROW16 (`00_scope.md` R9, D36): `wrap16`, the low 16 bits. -/
def narrow16 (v : Int) : Coef := BitVec.ofInt 16 v

/-- `a div b`; no rule gives the quotient by 0 (log 9). -/
def quotient (a b : Nat) : Nat := if b = 0 then Config.quotientByZero a else a / b

/-- `a mod b`; no rule gives the remainder by 0 (log 9). -/
def remainder (a b : Nat) : Nat := if b = 0 then Config.remainderByZero a else a % b

/-! ## Cells -/

/-- The value at an address; 0 where no cell is listed. -/
def cellRead {n : Nat} : Cells n → Nat → BitVec n
  | [], _ => 0
  | (k, v) :: m, a => if k = a then v else cellRead m a

/-- Set the value at an address, keeping the canonical form. -/
def cellWrite {n : Nat} : Cells n → Nat → BitVec n → Cells n
  | [], a, v => if v = 0 then [] else [(a, v)]
  | (k, w) :: m, a, v =>
    if a < k then (if v = 0 then (k, w) :: m else (a, v) :: (k, w) :: m)
    else if a = k then (if v = 0 then m else (k, v) :: m)
    else (k, w) :: cellWrite m a v

/-- Store bytes from an address on. -/
def storeBytes : Memory → Nat → List Byte → Memory
  | m, _, [] => m
  | m, a, b :: bs => storeBytes (cellWrite m a b) (a + 1) bs

/-! ## Coefficient buffers (`10_state.md` R34) -/

/-- The array of a buffer id, if BUF has it. -/
def bufFind : List (Nat × Buffer) → Nat → Option Buffer
  | [], _ => none
  | (k, b) :: m, id => if k = id then some b else bufFind m id

/-- Set the array of a buffer id, keeping the ids rising. -/
def bufPut : List (Nat × Buffer) → Nat → Buffer → List (Nat × Buffer)
  | [], id, b => [(id, b)]
  | (k, c) :: m, id, b =>
    if id < k then (id, b) :: (k, c) :: m
    else if id = k then (id, b) :: m
    else (k, c) :: bufPut m id b

/-- Remove a buffer id. -/
def bufDrop (m : List (Nat × Buffer)) (id : Nat) : List (Nat × Buffer) := m.filter fun e => e.1 ≠ id

/-! ## Levels and prescale registers (`10_state.md` R29, R31, R32) -/

/-- `CT[c]`; outside the capacity it reads as a channel after reset, and every use checks the index first. -/
def channelAt (s : State) (c : Nat) : Channel := s.ct[c]?.getD Channel.reset

/-- Write `CT[c]`. -/
def setChannel (c : Nat) (ch : Channel) (s : State) : State := { s with ct := s.ct.setIfInBounds c ch }

/-- `CT[c].LV[l]`. -/
def levelAt (s : State) (c l : Nat) : Level := (channelAt s c).lv[l]?.getD Level.reset

/-- Write `CT[c].LV[l]`. -/
def setLevel (c l : Nat) (lev : Level) (s : State) : State :=
  setChannel c ⟨(channelAt s c).lv.setIfInBounds l lev, (channelAt s c).prescale⟩ s

/-- `PRESCALE[c][l]`. -/
def prescaleAt (s : State) (c l : Nat) : BitVec 4 := (channelAt s c).prescale[l]?.getD 0

/-- Write `PRESCALE[c][l]`. -/
def setPrescale (c l : Nat) (p : BitVec 4) (s : State) : State :=
  setChannel c ⟨(channelAt s c).lv, (channelAt s c).prescale.setIfInBounds l p⟩ s

/-- `L.BAND[b]`; a band past the four reads as a band after reset. -/
def bandAt (lev : Level) (b : Nat) : Band := lev.band[b]?.getD Band.reset

/-- Write `L.BAND[b]`. -/
def setBand (b : Nat) (x : Band) (lev : Level) : Level := { lev with band := lev.band.setIfInBounds b x }

/-! ## Single registers -/

def setPos (n : Nat) (s : State) : State := { s with pos := n }
def setSess (x : Sess) (s : State) : State := { s with sess := x }
def setSeq (x : Seq) (s : State) : State := { s with seq := x }
def setSeqIdx (i : Nat) (s : State) : State := { s with seq := { s.seq with idx := BitVec.ofNat 32 i } }
def setHdr (h : HdrFields) (s : State) : State := { s with hdr := h }
def setQuant (i : Nat) (q : U16) (s : State) : State := { s with quant := s.quant.setIfInBounds i q }
def setOffsets (x y : U16) (s : State) : State := { s with offx := x, offy := y }
def setBufs (m : List (Nat × Buffer)) (s : State) : State := { s with bufs := m }
def setNextBuf (n : Nat) (s : State) : State := { s with nextBuf := n }
def setDest (m : Cells 16) (s : State) : State := { s with dest := m }
def setLogt (t : List Coef) (s : State) : State := { s with logt := t, logtValid := true }
def setBinding (b : Option Binding) (s : State) : State := { s with binding := b }
def setInbox (q : List Request) (s : State) : State := { s with inbox := q }
def setResult (r : Result) (s : State) : State := { s with result := r }

/-- `QUANT[i]`. -/
def quantAt (s : State) (i : Nat) : U16 := s.quant[i]?.getD 0

/-! ## The bit reader (`40_bitreader_rlv.md` R120 to R124) -/

/-- `END = 8 · IN_LEN` (`10_state.md` R24); 0 with no buffer bound (log 12). -/
def streamEnd (s : State) : Nat :=
  match s.binding with
  | none => 0
  | some b => 8 * b.input.len

/-- `bit(p) = IN[p div 8][7 − (p mod 8)]` (`20_memory.md` R61). -/
def streamBit (s : State) (p : Nat) : Bool :=
  match s.binding with
  | none => false
  | some b => (cellRead s.mem (b.input.base + p / 8)).getLsbD (7 - p % 8)

/-- The bits at positions `p .. p + n - 1`. -/
def streamBits (s : State) (p n : Nat) : List Bool := (List.range' p n).map (streamBit s)

/-- The bits from POS to END. -/
def streamRest (s : State) : List Bool := streamBits s s.pos (streamEnd s - s.pos)

/-- Consume `n` bits, or raise ReaderOverrun consuming none (R121, R124). -/
def takeBits (n : Nat) : Op Unit := do
  let s ← get
  failIf (s.pos + n > streamEnd s) .readerOverrun s.pos
  modify (setPos (s.pos + n))

/-- `BitPeek(n)` (R122). -/
def bitPeek (n : Nat) : Op Nat := do
  let s ← get
  failIf (n > Config.maxReadBits) .badBitCount n
  failIf (s.pos + n > streamEnd s) .readerOverrun s.pos
  pure (bitsToNat (streamBits s s.pos n))

/-- `BitRead(n)` (R121). -/
def bitRead (n : Nat) : Op Nat := do
  let v ← bitPeek n
  modify fun s => setPos (s.pos + n) s
  pure v

end Sys2Proof.Machine
end

