-- ==== Sys2Proof/Machine/Flags.lean ====
section
/-! DEFINITION. The flags (spec/10_state.md R25): INIT, VALID, LOGT_VALID and "error recorded". No arithmetic
operation sets a flag. -/

namespace Sys2Proof.Machine

/-- `VALID[b]` (R25). -/
def validBit (lev : Level) (b : Nat) : Bool := lev.valid.getLsbD b

/-- `VALID[b] <- 1` (`43_level.md` R168). -/
def setValidBit (b : Nat) (lev : Level) : Level := { lev with valid := lev.valid ||| BitVec.ofNat 4 (2 ^ b) }

/-- AllBandsValid (`43_level.md` R165, R170): initialized, and every declared band's bit set. -/
def allValid (lev : Level) : Bool := lev.init && decide (lev.valid.toNat = 2 ^ lev.numBands.toNat - 1)

/-- `ERR.kind ≠ 0`: an error is recorded (R25, R26). -/
def errRecorded (s : State) : Bool := decide (s.err.kind ≠ 0)

end Sys2Proof.Machine
end

