-- ==== Sys2Proof/Machine/Operands.lean ====
section
/-! DEFINITION. The operand forms: level references, plane descriptors and elements (spec/42_plane.md R150 to R157,
spec/20_memory.md R66, R67), header fields (spec/30_encoding.md R93, R94), subbands and sizes
(spec/44_channel_orchestrator.md R197, R199), and the destination (R203). -/

namespace Sys2Proof.Machine

/-! ## Level references -/

/-- The index check of every operation on a level (`44_channel_orchestrator.md` R191). -/
def checkLevel (lv : LevelRef) : Op Unit :=
  failIf (lv.c.toNat > 3 ∨ lv.l.toNat > 2) .levelIndex (lv.c.toNat * 256 + lv.l.toNat)

/-- `L <- CT[c].LV[l]` with its index check. -/
def fetchLevel (lv : LevelRef) : Op Level := do
  checkLevel lv
  let s ← get
  pure (levelAt s lv.c.toNat lv.l.toNat)

/-- Write `CT[c].LV[l]`. -/
def storeLevel (lv : LevelRef) (lev : Level) : Op Unit := modify (setLevel lv.c.toNat lv.l.toNat lev)

/-- `L <- CT[c].LV[l]` of an initialized level with band `b` declared: the checks of LV.SETVALID, LV.ISVALID and
LV.BANDPLANE in their order (`60_exceptions.md` R229). -/
def fetchBandLevel (lv : LevelRef) (b : Nat) : Op Level := do
  let lev ← fetchLevel lv
  failIf (lev.init = false) .levelState (lv.c.toNat * 256 + lv.l.toNat)
  failIf (b ≥ lev.numBands.toNat) .bandIndex b
  pure lev

/-! ## Plane descriptors and elements -/

/-- The element index of (x, y) (`42_plane.md` R152, `20_memory.md` R66). -/
def planeAddr (p : Plane) (x y : Nat) : Nat := p.base + y * p.stride.toNat + x

/-- The array a descriptor stands on: its buffer is in BUF and no RESET came since the descriptor was made (`42_plane.md`
R157, `70_reset_and_hazards.md` R257; log 22). -/
def liveBuffer (s : State) (p : Plane) : Option (Nat × Buffer) :=
  if p.epoch = s.epoch then p.buf.bind fun id => (bufFind s.bufs id).map fun b => (id, b) else none

/-- CheckDescriptor (`42_plane.md` R157): the buffer id and its array. -/
def checkDescriptor (p : Plane) : Op (Nat × Buffer) := do
  let s ← get
  match liveBuffer s p with
  | none => raise .danglingView 0
  | some e => pure e

/-- CheckAccess (`42_plane.md` R157). An element past the end of its buffer, which only a descriptor that breaks R150
has, is out of bounds too (log 7): R157 makes every out-of-bounds access a contract violation. -/
def checkAccess (p : Plane) (x y : Nat) : Op (Nat × Buffer) := do
  let e ← checkDescriptor p
  failIf (x ≥ p.width.toNat ∨ y ≥ p.height.toNat ∨ e.2.len ≤ planeAddr p x y) .planeBounds (x * 65536 + y)
  pure e

/-- CheckAccess of every element of a plane, in row-major order: what a check before the first write must pass
(`60_exceptions.md` R225 (e)). -/
def checkElements (p : Plane) : Op Unit :=
  forFrom 0 p.height.toNat fun y =>
    forFrom 0 p.width.toNat fun x => do
      let _ ← checkAccess p x y
      pure ()

/-- `P(x, y)` (`42_plane.md` R153). -/
def planeRead (p : Plane) (x y : Nat) : Op Coef := do
  let e ← checkAccess p x y
  pure (cellRead e.2.cells (planeAddr p x y))

/-- `P(x, y) <- v` (`42_plane.md` R154). -/
def planeWrite (p : Plane) (x y : Nat) (v : Coef) : Op Unit := do
  let e ← checkAccess p x y
  modify fun s => setBufs (bufPut s.bufs e.1 ⟨e.2.len, cellWrite e.2.cells (planeAddr p x y) v⟩) s

/-- A view of `p` (`42_plane.md` R156, `20_memory.md` R67). -/
def viewOf (p : Plane) (x0 y0 w h : U16) : Plane :=
  ⟨p.buf, p.base + y0.toNat * p.stride.toNat + x0.toNat, w, h, p.stride, false, p.epoch⟩

/-! ## Header fields (`30_encoding.md` R93, R94) -/

/-- The width of a header field in bits. -/
def headerFieldBits : HdrField → Nat
  | .sequenceId _ => 8
  | .sequenceNumber => 32
  | _ => 16

/-- The value of a field in a header word. -/
def headerFieldValue (h : HeaderWord) : HdrField → Nat
  | .numChannels => h.fields.numChannels.toNat
  | .numSubbands => h.fields.numSubbands.toNat
  | .numWavelets => h.fields.numWavelets.toNat
  | .imageWidth => h.fields.imageWidth.toNat
  | .imageHeight => h.fields.imageHeight.toNat
  | .patternWidth => h.fields.patternWidth.toNat
  | .patternHeight => h.fields.patternHeight.toNat
  | .formatTag => h.fields.formatTag.toNat
  | .bitsPerComponent => h.fields.bitsPerComponent.toNat
  | .lowpassPrecision => h.fields.lowpassPrecision.toNat
  | .sequenceId k => (h.fields.sequenceId[k]?.getD 0).toNat
  | .sequenceNumber => h.fields.sequenceNumber.toNat
  | .quant s => (h.quant.getD s 0).toNat

/-- A header field read from the stream. -/
def readField (f : HdrField) : Op Nat := bitRead (headerFieldBits f)

/-- A header field of a header word that stands at POS: its bits are consumed. -/
def wordField (h : HeaderWord) (f : HdrField) : Op Nat := do
  takeBits (headerFieldBits f)
  pure (headerFieldValue h f)

/-! ## Subbands and sizes (`44_channel_orchestrator.md` R197, R199) -/

/-- `Subband(l, b)` for `numLevels` levels (R199). -/
def subbandOf (numLevels l b : Nat) : Nat := if b = 0 then 0 else 1 + 3 * (numLevels - 1 - l) + (b - 1)

/-- Wc (R197). -/
def channelWidth (s : State) : Nat := quotient s.hdr.imageWidth.toNat s.hdr.patternWidth.toNat

/-- Hc (R197). -/
def channelHeight (s : State) : Nat := quotient s.hdr.imageHeight.toNat s.hdr.patternHeight.toNat

/-- `LevelDims(l)` (R197). -/
def levelWidth (s : State) (l : Nat) : Nat := channelWidth s / 2 ^ (l + 1)

/-- `LevelDims(l)` (R197). -/
def levelHeight (s : State) (l : Nat) : Nat := channelHeight s / 2 ^ (l + 1)

/-- The level reference of a channel and level the sequencer drives. -/
def levelRef (c l : Nat) : LevelRef := ⟨BitVec.ofNat 8 c, BitVec.ofNat 8 l⟩

/-! ## The destination (`10_state.md` R36, `20_memory.md` R68) -/

/-- The bound destination image; with none bound, an image of no samples and depth 0 (log 8). -/
def boundDest (s : State) : DestHandle := (s.binding.map Binding.dest).getD ⟨0, 0, 0, 0⟩

/-- The key of sample (x, y) of an image: x and y are 16-bit, so keys of different samples differ. -/
def destKey (image x y : Nat) : Nat := (image * 65536 + y) * 65536 + x

/-- `DEST[x, y]` of an image. -/
def destSample (s : State) (image x y : Nat) : U16 := cellRead s.dest (destKey image x y)

/-- The sample a value becomes; a value of more than 16 bits is free (log 10). -/
def sampleOf (v : Int) : U16 := if 0 ≤ v ∧ v < 65536 then BitVec.ofInt 16 v else Config.oversizeSample v

/-- The column DestWrite gives to column `X` of channel `c` (R203). -/
def destX (s : State) (c X : Nat) : Nat :=
  s.offx.toNat + s.hdr.patternWidth.toNat * X + remainder c s.hdr.patternWidth.toNat

/-- The row DestWrite gives to row `Y` of channel `c` (R203). -/
def destY (s : State) (c Y : Nat) : Nat :=
  s.offy.toNat + s.hdr.patternHeight.toNat * Y + quotient c s.hdr.patternWidth.toNat

/-- (x, y) is in the image region (`20_memory.md` R68). -/
abbrev inRegion (s : State) (x y : Nat) : Prop :=
  s.offx.toNat ≤ x ∧ x < s.offx.toNat + s.hdr.imageWidth.toNat ∧
  s.offy.toNat ≤ y ∧ y < s.offy.toNat + s.hdr.imageHeight.toNat

/-- (x, y) is a sample the hardware may write: inside the image region and inside the image (R68). -/
abbrev destWritable (s : State) (x y : Nat) : Prop :=
  inRegion s x y ∧ x < (boundDest s).w.toNat ∧ y < (boundDest s).h.toNat

/-- DestWrite (`44_channel_orchestrator.md` R203). No sample outside the region or the image is ever written
(`20_memory.md` R68, `60_exceptions.md` R226): such a write, which only a unit operation can ask for, writes nothing
(log 8). -/
def destWrite (c X Y : Nat) (v : Int) : Op Unit :=
  modify fun s =>
    if destWritable s (destX s c X) (destY s c Y) then
      setDest (cellWrite s.dest (destKey (boundDest s).image (destX s c X) (destY s c Y)) (sampleOf v)) s
    else s

end Sys2Proof.Machine
end

