-- ==== Sys2Proof/Machine/BitReader.lean ====
section
/-! DEFINITION. The bit reader's operations and the RLV decoder (spec/40_bitreader_rlv.md R121 to R127). -/

namespace Sys2Proof.Machine

/-- BR.READ (R121). -/
def execBrRead (n : Nat) (s : State) : Host.Outcome State Fault Refusal :=
  finish (do let v ← bitRead n; pure (.bits (BitVec.ofNat 32 v))) s

/-- BR.PEEK (R122). -/
def execBrPeek (n : Nat) (s : State) : Host.Outcome State Fault Refusal :=
  finish (do let v ← bitPeek n; pure (.bits (BitVec.ofNat 32 v))) s

/-- BR.ATEND (R123). -/
def execBrAtEnd (s : State) : Host.Outcome State Fault Refusal :=
  finish (do
    let s ← get
    pure (.atEnd (decide (s.pos = streamEnd s)) (streamEnd s - s.pos))) s

/-- The zero run of a code word (R125): `z` zeros were read, `left` more are allowed. -/
def readZeros : Nat → Nat → Op Nat
  | 0, z => do
    let b ← bitRead 1
    if b = 0 then
      let s ← get
      raise .malformedCode s.pos
    else pure z
  | left + 1, z => do
    let b ← bitRead 1
    if b = 0 then readZeros left (z + 1) else pure z

/-- UE (R125), the decoder of one code word. -/
def readCode : Op Nat := do
  let z ← readZeros Config.ueMaxZeros 0
  let suffix ← bitRead z
  pure (2 ^ z - 1 + suffix)

/-- RLV.DECODE (R126): the run length and the value of one token. -/
def readToken : Op (Nat × Int) := do
  let run ← readCode
  let m ← readCode
  if m = 0 then pure (run, 0)
  else
    let sign ← bitRead 1
    pure (run, if sign = 1 then -(m : Int) else m)

/-- RLV.DECODE (R126). -/
def execRlvDecode (s : State) : Host.Outcome State Fault Refusal :=
  finish (do let t ← readToken; pure (.token t.1 t.2)) s

end Sys2Proof.Machine
end

