-- ==== Sys2Proof/Machine/PlaneOps.lean ====
section
/-! DEFINITION. The coefficient plane's operations (spec/42_plane.md R151 to R157). -/

namespace Sys2Proof.Machine

/-- PL.CREATE (R151). -/
def planeCreate (width height : U16) : Op Plane := do
  failIf (width = 0 ∨ height = 0) .badDimensions (width.toNat * 65536 + height.toNat)
  let s ← get
  modify fun s => setNextBuf (s.nextBuf + 1) (setBufs (bufPut s.bufs s.nextBuf ⟨width.toNat * height.toNat, []⟩) s)
  pure ⟨some s.nextBuf, 0, width, height, width, true, s.epoch⟩

/-- PL.CLEAR (R155). -/
def planeClear (p : Plane) : Op Unit := do
  let _ ← checkDescriptor p
  forFrom 0 p.height.toNat fun y =>
    forFrom 0 p.width.toNat fun x => planeWrite p x y 0

/-- PL.VIEW (R156). -/
def planeView (p : Plane) (x0 y0 w h : U16) : Op Plane := do
  let _ ← checkDescriptor p
  failIf (w = 0 ∨ h = 0) .badDimensions (w.toNat * 65536 + h.toNat)
  failIf (x0.toNat + w.toNat > p.width.toNat ∨ y0.toNat + h.toNat > p.height.toNat) .planeBounds
    (x0.toNat * 65536 + y0.toNat)
  pure (viewOf p x0 y0 w h)

/-- PL.CREATE (R151). -/
def execPlCreate (width height : U16) (s : State) : Host.Outcome State Fault Refusal :=
  finish (do let p ← planeCreate width height; pure (.plane p)) s

/-- PL.CLEAR (R155). -/
def execPlClear (p : Plane) (s : State) : Host.Outcome State Fault Refusal := finishUnit (planeClear p) s

/-- PL.READ (R153). -/
def execPlRead (p : Plane) (x y : U16) (s : State) : Host.Outcome State Fault Refusal :=
  finish (do let v ← planeRead p x.toNat y.toNat; pure (.coef v)) s

/-- PL.WRITE (R154). -/
def execPlWrite (p : Plane) (x y : U16) (v : Coef) (s : State) : Host.Outcome State Fault Refusal :=
  finishUnit (planeWrite p x.toNat y.toNat v) s

/-- PL.VIEW (R156). -/
def execPlView (p : Plane) (x0 y0 w h : U16) (s : State) : Host.Outcome State Fault Refusal :=
  finish (do let v ← planeView p x0 y0 w h; pure (.plane v)) s

end Sys2Proof.Machine
end

