-- ==== Sys2Proof/Machine/LevelOps.lean ====
section
/-! DEFINITION. The wavelet level: validity mask, dequantizer, band access and reconstruction
(spec/43_level.md R165 to R182). -/

namespace Sys2Proof.Machine

/-! ## The level and its mask -/

/-- LV.INIT (R166). -/
def levelInit (lv : LevelRef) (width height : U16) (numBands : Nat) : Op Unit := do
  let lev ← fetchLevel lv
  failIf (lev.init = true) .levelState (lv.c.toNat * 256 + lv.l.toNat)
  failIf (numBands < 1 ∨ numBands > 4) .badBandCount numBands
  failIf (width = 0 ∨ height = 0) .badDimensions (width.toNat * 65536 + height.toNat)
  storeLevel lv { lev with width, height, stride := width, numBands := BitVec.ofNat 3 numBands }
  forFrom 0 numBands fun b => do
    let p ← planeCreate width height
    modify fun s => setLevel lv.c.toNat lv.l.toNat (setBand b ⟨p, 0⟩ (levelAt s lv.c.toNat lv.l.toNat)) s
  modify fun s =>
    setLevel lv.c.toNat lv.l.toNat { levelAt s lv.c.toNat lv.l.toNat with valid := 0, init := true } s

/-- The buffer ids of the declared bands of a level. -/
def levelBufs (lev : Level) : List Nat :=
  (List.range lev.numBands.toNat).filterMap fun b => (bandAt lev b).plane.buf

/-- `if L.INIT = 1: for b in 0 .. L.numBands-1: remove L.BAND[b].plane.buf from BUF` (R167). -/
def dropBands (lev : Level) : Op Unit :=
  if lev.init then modify fun s => setBufs ((levelBufs lev).foldl bufDrop s.bufs) s else pure ()

/-- LV.CLEAR (R167). -/
def levelClear (lv : LevelRef) : Op Unit := do
  let lev ← fetchLevel lv
  dropBands lev
  storeLevel lv Level.reset

/-- LV.SETVALID (R168). -/
def levelSetValid (lv : LevelRef) (b : Nat) : Op Unit := do
  let lev ← fetchBandLevel lv b
  storeLevel lv (setValidBit b lev)

/-- LV.ISVALID (R169). -/
def levelIsValid (lv : LevelRef) (b : Nat) : Op Bool := do
  let lev ← fetchBandLevel lv b
  pure (validBit lev b)

/-- LV.ALLVALID (R170). -/
def levelAllValid (lv : LevelRef) : Op Bool := do
  let lev ← fetchLevel lv
  pure (allValid lev)

/-! ## The dequantizer -/

/-- One element of LV.DEQUANT (R171): the exact product, narrowed; quant 0 is the identity. -/
def scaleCoef (quant : U16) (v : Coef) : Coef :=
  if quant = 0 then v else narrow16 (v.toInt * quant.toInt)

/-- LV.DEQUANT (R171), element by element in row-major order (`70_reset_and_hazards.md` R258). -/
def levelDequant (out inp : Plane) (quant : U16) : Op Unit := do
  let _ ← checkDescriptor out
  let _ ← checkDescriptor inp
  failIf (out.width ≠ inp.width ∨ out.height ≠ inp.height) .planeMismatch 0
  forFrom 0 inp.height.toNat fun y =>
    forFrom 0 inp.width.toNat fun x => do
      let v ← planeRead inp x y
      planeWrite out x y (scaleCoef quant v)

/-! ## Band access -/

/-- LV.BANDPLANE (R172). -/
def levelBandPlane (lv : LevelRef) (b : Nat) : Op Plane := do
  let lev ← fetchBandLevel lv b
  planeView (bandAt lev b).plane 0 0 lev.width lev.height

/-! ## Reconstruction -/

/-- One position of kernel K0 (R177): the even and the odd output. -/
def synthPair (low high : List Int) (i : Nat) : List Int :=
  let lm := low.getD (i - 1) 0
  let lp := low.getD (min (i + 1) (low.length - 1)) 0
  let c := asr (lm - lp + 4) 3
  let d := high.getD i 0 + c
  let odd := low.getD i 0 - asr d 1
  [odd + d, odd]

/-- LIFT_KERNEL, the default kernel K0 (R177; log 14), edge-replicated (R176). -/
def synth1D (low high : List Int) : List Int := (List.range low.length).flatMap (synthPair low high)

/-- `B_k(x, y)` (R175): a band the level does not declare reads 0. -/
def bandFetch (lev : Level) (k x y : Nat) : Op Int :=
  if k < lev.numBands.toNat then do
    let v ← planeRead (bandAt lev k).plane x y
    pure v.toInt
  else pure 0

/-- The line `[B_k(x, y) for x in 0 .. w-1]`. -/
def bandLine (lev : Level) (k y : Nat) : Op (List Int) :=
  mapFrom 0 lev.width.toNat fun x => bandFetch lev k x y

/-- The horizontal pass for one band row: (Lo[y], Hi[y]) (R178). -/
def rowPair (lev : Level) (y : Nat) : Op (List Int × List Int) := do
  let b0 ← bandLine lev 0 y
  let b1 ← bandLine lev 1 y
  let b2 ← bandLine lev 2 y
  let b3 ← bandLine lev 3 y
  pure (synth1D b0 b1, synth1D b2 b3)

/-- The vertical pass (R178): the `h2` output rows of `w2` values from the intermediate row pairs. -/
def columnPass (rows : List (List Int × List Int)) (w2 h2 : Nat) : List (List Int) :=
  let cols := (List.range w2).map fun X =>
    synth1D (rows.map fun r => r.1.getD X 0) (rows.map fun r => r.2.getD X 0)
  (List.range h2).map fun Y => cols.map fun col => col.getD Y 0

/-- Synth2D (R178): horizontal pass first, intermediates not narrowed. -/
def synth2D (lev : Level) : Op (List (List Int)) := do
  let rows ← mapFrom 0 lev.height.toNat (rowPair lev)
  pure (columnPass rows (2 * lev.width.toNat) (2 * lev.height.toNat))

/-- Post (R179) for a given bits-per-component. -/
def postValue (bpc : Nat) (v : Int) (prescale : Nat) (clamp : Bool) : Int :=
  if clamp then clampInt (asr v prescale) 0 (2 ^ bpc - 1) else asr v prescale

/-- CheckSink (R180). A plane sink's elements are checked here too (log 7), because a failing LV.RECON writes nothing
(`60_exceptions.md` R225 (e), R229). -/
def checkSink (dest : Sink) (w2 h2 : Nat) (clamp : Bool) : Op Unit :=
  match dest with
  | .plane p => do
    let _ ← checkDescriptor p
    failIf (p.width.toNat ≠ w2 ∨ p.height.toNat ≠ h2) .planeMismatch 0
    checkElements p
  | .image _ => do
    failIf (clamp = false) .sinkMode 0
    let s ← get
    failIf (w2 ≠ channelWidth s ∨ h2 ≠ channelHeight s) .planeMismatch 1

/-- SinkWrite (R180). -/
def sinkWrite (dest : Sink) (X Y : Nat) (v : Int) : Op Unit :=
  match dest with
  | .plane p => planeWrite p X Y (narrow16 v)
  | .image c => destWrite c.toNat X Y v

/-- LV.RECON (R174): the checks, then all of S, then the writes. -/
def levelRecon (lv : LevelRef) (dest : Sink) (prescale : BitVec 4) (clamp : Bool) : Op Unit := do
  let lev ← fetchLevel lv
  failIf (allValid lev = false) .bandsNotValid lev.valid.toNat
  checkSink dest (2 * lev.width.toNat) (2 * lev.height.toNat) clamp
  let rows ← synth2D lev
  let s ← get
  forFrom 0 (2 * lev.height.toNat) fun Y =>
    forFrom 0 (2 * lev.width.toNat) fun X =>
      sinkWrite dest X Y
        (postValue s.hdr.bitsPerComponent.toNat ((rows.getD Y []).getD X 0) prescale.toNat clamp)

/-! ## Meanings -/

/-- LV.INIT (R166). -/
def execLvInit (lv : LevelRef) (width height : U16) (numBands : Nat) (s : State) :
    Host.Outcome State Fault Refusal := finishUnit (levelInit lv width height numBands) s

/-- LV.CLEAR (R167). -/
def execLvClear (lv : LevelRef) (s : State) : Host.Outcome State Fault Refusal := finishUnit (levelClear lv) s

/-- LV.SETVALID (R168). -/
def execLvSetValid (lv : LevelRef) (band : BitVec 8) (s : State) : Host.Outcome State Fault Refusal :=
  finishUnit (levelSetValid lv band.toNat) s

/-- LV.ISVALID (R169). -/
def execLvIsValid (lv : LevelRef) (band : BitVec 8) (s : State) : Host.Outcome State Fault Refusal :=
  finish (do let b ← levelIsValid lv band.toNat; pure (.flag b)) s

/-- LV.ALLVALID (R170). -/
def execLvAllValid (lv : LevelRef) (s : State) : Host.Outcome State Fault Refusal :=
  finish (do let b ← levelAllValid lv; pure (.flag b)) s

/-- LV.DEQUANT (R171). -/
def execLvDequant (out inp : Plane) (quant : U16) (s : State) : Host.Outcome State Fault Refusal :=
  finishUnit (levelDequant out inp quant) s

/-- LV.RECON (R174). -/
def execLvRecon (lv : LevelRef) (dest : Sink) (prescale : BitVec 4) (clamp : Bool) (s : State) :
    Host.Outcome State Fault Refusal := finishUnit (levelRecon lv dest prescale clamp) s

/-- LV.BANDPLANE (R172). -/
def execLvBandPlane (lv : LevelRef) (band : BitVec 8) (s : State) : Host.Outcome State Fault Refusal :=
  finish (do let p ← levelBandPlane lv band.toNat; pure (.plane p)) s

end Sys2Proof.Machine
end

