-- ==== Sys2Proof/Machine/LogTable.lean ====
section
/-! DEFINITION. The log-domain expansion table (spec/41_logtable.md R140 to R145). -/

namespace Sys2Proof.Machine

/-- EXPAND_LOG, the default companding law (R141; log 14). -/
def expandLog (i : Nat) : Nat := min 32767 (i + 768 * i * i * i / 16581375)

/-- The table LOG.BUILD writes (R142). -/
def logTable : List Coef := (List.range Config.logTableSize).map fun i => BitVec.ofNat 16 (expandLog i)

/-- LOG.BUILD (R142). -/
def logBuild : Op Unit := modify (setLogt logTable)

/-- `if LOGT_VALID = 0: LOG.BUILD` (R143). -/
def ensureTable : Op Unit := do
  let s ← get
  if s.logtValid then pure () else logBuild

/-- LOG.DECODE (R143): builds the table on first use, checks the index, looks it up, puts the sign back. -/
def logDecode (v : Int) : Op Int := do
  ensureTable
  failIf (v.natAbs > 4095) .logIndex v.natAbs
  let s ← get
  pure (v.sign * (s.logt.getD v.natAbs 0).toInt)

/-- LOG.BUILD (R142). -/
def execLogBuild (s : State) : Host.Outcome State Fault Refusal := finishUnit logBuild s

/-- LOG.DECODE (R143). -/
def execLogDecode (v : U32) (s : State) : Host.Outcome State Fault Refusal :=
  finish (do let r ← logDecode v.toInt; pure (.expanded r)) s

end Sys2Proof.Machine
end

