-- ==== Sys2Proof/Machine/Sequencer.lean ====
section
/-! DEFINITION. The channel transform and the sequencer: header parse, band fill, and the driving order of DECODE
(spec/44_channel_orchestrator.md R190 to R204). -/

namespace Sys2Proof.Machine

/-! ## Channel transform -/

/-- CT.LEVEL (R191). -/
def execCtLevel (c l : BitVec 8) (s : State) : Host.Outcome State Fault Refusal :=
  finish (do checkLevel ⟨c, l⟩; pure (.level ⟨c, l⟩)) s

/-- CT.PRESCALE (R192). -/
def execCtPrescale (c l : BitVec 8) (s : State) : Host.Outcome State Fault Refusal :=
  finish (do
    checkLevel ⟨c, l⟩
    let s ← get
    pure (.prescale (prescaleAt s c.toNat l.toNat))) s

/-! ## Header parse -/

/-- Write header registers. -/
def updateHdr (f : HdrFields → HdrFields) : Op Unit := modify fun s => setHdr (f s.hdr) s

/-- HDR.PARSE (R195, R196), each field got by `rd`, stored, then checked. -/
def parseHeader (rd : HdrField → Op Nat) : Op Unit := do
  let nc ← rd .numChannels
  updateHdr fun h => { h with numChannels := BitVec.ofNat 16 nc }
  failIf (nc < 1 ∨ nc > Config.maxChannels) .channelCount nc
  let nsb ← rd .numSubbands
  updateHdr fun h => { h with numSubbands := BitVec.ofNat 16 nsb }
  failIf (nsb < 1 ∨ nsb > Config.maxSubbands) .subbandCount nsb
  let nw ← rd .numWavelets
  updateHdr fun h => { h with numWavelets := BitVec.ofNat 16 nw }
  failIf (nw < 1 ∨ nw > Config.maxWavelets) .waveletCount nw
  failIf (nsb ≠ 3 * nw + 1) .subbandLevelMismatch nsb
  let w ← rd .imageWidth
  updateHdr fun h => { h with imageWidth := BitVec.ofNat 16 w }
  failIf (w = 0) .imageWidth w
  let h ← rd .imageHeight
  updateHdr fun r => { r with imageHeight := BitVec.ofNat 16 h }
  failIf (h = 0) .imageHeight h
  let pw ← rd .patternWidth
  updateHdr fun r => { r with patternWidth := BitVec.ofNat 16 pw }
  failIf (pw = 0 ∨ w % pw ≠ 0 ∨ w / pw % 2 ^ nw ≠ 0) .patternWidth pw
  let ph ← rd .patternHeight
  updateHdr fun r => { r with patternHeight := BitVec.ofNat 16 ph }
  failIf (ph = 0 ∨ h % ph ≠ 0 ∨ h / ph % 2 ^ nw ≠ 0) .patternHeight ph
  failIf (pw * ph ≠ nc) .patternChannels (pw * ph)
  let fmt ← rd .formatTag
  updateHdr fun r => { r with formatTag := BitVec.ofNat 16 fmt }
  failIf (fmt ∉ Config.formatTags) .formatTag fmt
  let bpc ← rd .bitsPerComponent
  updateHdr fun r => { r with bitsPerComponent := BitVec.ofNat 16 bpc }
  let s ← get
  failIf (bpc < 1 ∨ bpc > Config.bpcMax ∨ bpc > (boundDest s).depth) .bitsPerComponent bpc
  let lpp ← rd .lowpassPrecision
  updateHdr fun r => { r with lowpassPrecision := BitVec.ofNat 16 lpp }
  failIf (lpp < 1 ∨ lpp > Config.lowpassPrecisionMax) .lowpassPrecision lpp
  forFrom 0 Config.seqIdBytes fun k => do
    let v ← rd (.sequenceId k)
    updateHdr fun r => { r with sequenceId := r.sequenceId.setIfInBounds k (BitVec.ofNat 8 v) }
  let number ← rd .sequenceNumber
  updateHdr fun r => { r with sequenceNumber := BitVec.ofNat 32 number }
  forFrom 0 nsb fun i => do
    let q ← rd (.quant i)
    modify (setQuant i (BitVec.ofNat 16 q))

/-- HDR.PARSE (R195). -/
def execHdrParse (s : State) : Host.Outcome State Fault Refusal := finishUnit (parseHeader readField) s

/-! ## Band fill -/

/-- One token of BAND.FILL placed from element `idx` on of a band of `n` elements (R200); the next index. -/
def placeToken (p : Plane) (n idx : Nat) : Op Nat := do
  let t ← readToken
  failIf (t.1 + 1 > n - idx) .runOverflow t.1
  forFrom idx t.1 fun i => planeWrite p (i % p.width.toNat) (i / p.width.toNat) 0
  let coef ← logDecode t.2
  planeWrite p ((idx + t.1) % p.width.toNat) ((idx + t.1) / p.width.toNat) (BitVec.ofInt 16 coef)
  modify (setSeqIdx (idx + t.1 + 1))
  pure (idx + t.1 + 1)

/-- `while idx < n` of BAND.FILL (R200); every token takes an element, so `n` rounds are enough (R204). -/
def fillFrom (p : Plane) (n : Nat) : Nat → Nat → Op Unit
  | 0, _ => pure ()
  | rounds + 1, idx =>
    if idx < n then do
      let idx' ← placeToken p n idx
      fillFrom p n rounds idx'
    else pure ()

/-- BAND.FILL (R200). It writes SEQ.idx after each token (R200, R204; log 16). -/
def fillBand (lv : LevelRef) (b : Nat) : Op Unit := do
  let p ← levelBandPlane lv b
  fillFrom p (p.width.toNat * p.height.toNat) (p.width.toNat * p.height.toNat) 0
  levelSetValid lv b

/-- BAND.FILL (R200). -/
def execBandFill (lv : LevelRef) (band : BitVec 8) (s : State) : Host.Outcome State Fault Refusal :=
  finishUnit (fillBand lv band.toNat) s

/-! ## The driving order -/

/-- `SEQ <- (phase, c, l, b, 0)` (R204). -/
def moveSeq (phase : Phase) (c l b : Nat) : Op Unit :=
  modify (setSeq ⟨phase, BitVec.ofNat 2 c, BitVec.ofNat 2 l, BitVec.ofNat 2 b, 0⟩)

/-- CheckDestRegion (R198). -/
def checkDestRegion : Op Unit := do
  let s ← get
  failIf (s.offx.toNat + s.hdr.imageWidth.toNat > (boundDest s).w.toNat ∨
      s.offy.toNat + s.hdr.imageHeight.toNat > (boundDest s).h.toNat)
    .destRegion (s.offx.toNat * 65536 + s.offy.toNat)

/-- `if CT[c].LV[l].INIT = 0: LV.INIT((c,l), w, h, 4)` (R202). -/
def ensureLevel (c l w h : Nat) : Op Unit := do
  let s ← get
  if (levelAt s c l).init then pure ()
  else levelInit (levelRef c l) (BitVec.ofNat 16 w) (BitVec.ofNat 16 h) Config.maxBands

/-- One coded band of a level: its quantization value, then its tokens (R202). -/
def fillCodedBand (c l numLevels b : Nat) : Op Unit := do
  moveSeq .fill c l b
  modify fun s =>
    setLevel c l
      (setBand b ⟨(bandAt (levelAt s c l) b).plane, quantAt s (subbandOf numLevels l b)⟩ (levelAt s c l)) s
  fillBand (levelRef c l) b

/-- One highpass band of a level, dequantized in place (R202). -/
def dequantBand (c l b : Nat) : Op Unit := do
  let p ← levelBandPlane (levelRef c l) b
  moveSeq .deq c l b
  let s ← get
  levelDequant p p (bandAt (levelAt s c l) b).quant

/-- One level of DecodeChannel (R202). -/
def decodeLevel (c numLevels l : Nat) : Op Unit := do
  let s ← get
  let w := levelWidth s l
  let h := levelHeight s l
  ensureLevel c l w h
  let first := if l = numLevels - 1 then 0 else 1
  forFrom first (4 - first) (fillCodedBand c l numLevels)
  forFrom 1 3 (dequantBand c l)
  if l = 0 then do
    moveSeq .recon c 0 0
    levelRecon (levelRef c 0) (.image (BitVec.ofNat 8 c)) (prescaleAt s c 0) true
  else do
    ensureLevel c (l - 1) (2 * w) (2 * h)
    let p ← levelBandPlane (levelRef c (l - 1)) 0
    moveSeq .recon c l 0
    levelRecon (levelRef c l) (.plane p) (prescaleAt s c l) false
    levelSetValid (levelRef c (l - 1)) 0

/-- `for l from k-1 down to 0` of DecodeChannel (R202). -/
def decodeLevels (c numLevels : Nat) : Nat → Op Unit
  | 0 => pure ()
  | k + 1 => do
    decodeLevel c numLevels k
    decodeLevels c numLevels k

/-- DecodeChannel (R202). -/
def decodeChannel (c : Nat) : Op Unit := do
  let s ← get
  decodeLevels c s.hdr.numWavelets.toNat s.hdr.numWavelets.toNat

/-- DECODE (R201). -/
def decodeImage (offsetX offsetY : U16) : Op Unit := do
  let s ← get
  failIf (s.sess ≠ .ready) .sessionState (sessCode s.sess).toNat
  modify fun s => setSeq Seq.reset (setOffsets offsetX offsetY (setSess .running s))
  parseHeader readField
  checkDestRegion
  let s ← get
  forFrom 0 s.hdr.numChannels.toNat decodeChannel
  moveSeq .fin (s.hdr.numChannels.toNat - 1) 0 0
  modify (setSess .done)

end Sys2Proof.Machine
end

