-- ==== Sys2Proof/Machine/HostCommands.lean ====
section
/-! DEFINITION. The host's commands and their admission (spec/44_channel_orchestrator.md R193, R194, R201, R206,
R207; spec/60_exceptions.md R236). -/

namespace Sys2Proof.Machine

/-- `for c in 0..3, l in 0..2: LV.CLEAR((c,l))` (R206). -/
def clearLevels : Op Unit := forFrom 0 4 fun c => forFrom 0 3 fun l => levelClear (levelRef c l)

/-- The state RESET leaves: every piece at its reset value, the bindings dropped; the host's memory and samples,
and the requests still to come, are not the hardware's and stay (R206, `10_state.md` R40; log 27); every descriptor
made before is dead from here on (`70_reset_and_hazards.md` R257; log 22). -/
def resetState (s : State) : State := 
  { State.reset with mem := s.mem, dest := s.dest, inbox := s.inbox, epoch := s.epoch + 1 }

/-- RESET (R206): legal in every state. -/
def execReset (s : State) : Host.Outcome State Fault Refusal :=
  finishUnit (do
    clearLevels
    modify resetState) s

/-- CONSTRUCT (R193). -/
def execConstruct (input : InHandle) (dest : DestHandle) (s : State) : Host.Outcome State Fault Refusal :=
  finishUnit (do
    failIf (s.sess ≠ .idle) .sessionState (sessCode s.sess).toNat
    failIf (dest.w = 0 ∨ dest.h = 0 ∨ dest.depth < 1 ∨ dest.depth > Config.destDepthMax) .badDest dest.depth
    modify fun s => setSess .ready (setPos 0 (setBinding (some ⟨input, dest⟩) s))) s

/-- CONFIG (R194). -/
def execConfig (c l : BitVec 2) (prescale : BitVec 4) (s : State) : Host.Outcome State Fault Refusal :=
  finishUnit (do
    failIf (s.sess ≠ .ready) .sessionState (sessCode s.sess).toNat
    failIf (l.toNat > 2) .levelIndex (c.toNat * 256 + l.toNat)
    modify (setPrescale c.toNat l.toNat prescale)) s

/-- DECODE (R201). -/
def execDecode (offsetX offsetY : U16) (s : State) : Host.Outcome State Fault Refusal :=
  finishUnit (decodeImage offsetX offsetY) s

/-- What STATUS shows (R207). -/
def statusPorts (s : State) : StatusPorts :=
  ⟨sessCode s.sess, s.err.kind, s.err.cause, s.err.info, s.pos, s.hdr, s.quant⟩

/-- STATUS (R207): changes nothing, raises nothing. -/
def execStatus (s : State) : Host.Outcome State Fault Refusal := finish (pure (.status (statusPorts s))) s

/-- A select code the interface does not admit (`60_exceptions.md` R236, `30_encoding.md` R101). -/
def refuseCommand (code : BitVec 8) (s : State) : Host.Outcome State Fault Refusal :=
  finishUnit (raise .badCommand code.toNat) s

/-- The codes the host may issue (`30_encoding.md` R91, `60_exceptions.md` R236). -/
def hostMayIssue (code : BitVec 8) : Bool := decide (code.toNat ≤ 0x04)

end Sys2Proof.Machine
end

