-- ==== Sys2Proof/Machine/StreamWords.lean ====
section
/-! DEFINITION. The stream words as instructions (spec/30_encoding.md R93 to R100; log 4): a word that stands at
POS is consumed read by read as its decoder does (R121, R125, R126, R195), with the same errors at the same place. -/

namespace Sys2Proof.Machine

/-- `count` single-bit reads. -/
def takeSingles : Nat → Op Unit
  | 0 => pure ()
  | n + 1 => do
    takeBits 1
    takeSingles n

/-- A code word with `z` zeros (`40_bitreader_rlv.md` R125): z + 1 single-bit reads, then the suffix. -/
def consumeCode (z suffix : Nat) : Op Nat := do
  takeSingles (z + 1)
  takeBits z
  pure (codeValue z suffix)

/-- The code word of a value (R97). -/
def consumeValue (v : Nat) : Op Nat := consumeCode (v + 1).log2 (v + 1 - 2 ^ (v + 1).log2)

/-- A code word as an instruction: its value on the result port. -/
def codeWord (z suffix : Nat) (s : State) : Host.Outcome State Fault Refusal :=
  finish (do let v ← consumeCode z suffix; pure (.code v)) s

/-- A token that stands at POS (`40_bitreader_rlv.md` R126). -/
def consumeToken (run : Nat) (value : Int) : Op (Nat × Int) := do
  let r ← consumeValue run
  let m ← consumeValue value.natAbs
  if m = 0 then pure (r, 0)
  else
    takeBits 1
    pure (r, if value < 0 then -(m : Int) else m)

/-- HDR: a header that stands at POS (R93, R195). -/
def execHdr (h : HeaderWord) (s : State) : Host.Outcome State Fault Refusal :=
  finishUnit (parseHeader (wordField h)) s

/-- UE.z0 (R98). -/
def execUeZ0 (s : State) : Host.Outcome State Fault Refusal := codeWord 0 0 s
/-- UE.z1 (R98). -/
def execUeZ1 (x : BitVec 1) (s : State) : Host.Outcome State Fault Refusal := codeWord 1 x.toNat s
/-- UE.z2 (R98). -/
def execUeZ2 (x : BitVec 2) (s : State) : Host.Outcome State Fault Refusal := codeWord 2 x.toNat s
/-- UE.z3 (R98). -/
def execUeZ3 (x : BitVec 3) (s : State) : Host.Outcome State Fault Refusal := codeWord 3 x.toNat s
/-- UE.z4 (R98). -/
def execUeZ4 (x : BitVec 4) (s : State) : Host.Outcome State Fault Refusal := codeWord 4 x.toNat s
/-- UE.z5 (R98). -/
def execUeZ5 (x : BitVec 5) (s : State) : Host.Outcome State Fault Refusal := codeWord 5 x.toNat s
/-- UE.z6 (R98). -/
def execUeZ6 (x : BitVec 6) (s : State) : Host.Outcome State Fault Refusal := codeWord 6 x.toNat s
/-- UE.z7 (R98). -/
def execUeZ7 (x : BitVec 7) (s : State) : Host.Outcome State Fault Refusal := codeWord 7 x.toNat s
/-- UE.z8 (R98). -/
def execUeZ8 (x : BitVec 8) (s : State) : Host.Outcome State Fault Refusal := codeWord 8 x.toNat s
/-- UE.z9 (R98). -/
def execUeZ9 (x : BitVec 9) (s : State) : Host.Outcome State Fault Refusal := codeWord 9 x.toNat s
/-- UE.z10 (R98). -/
def execUeZ10 (x : BitVec 10) (s : State) : Host.Outcome State Fault Refusal := codeWord 10 x.toNat s
/-- UE.z11 (R98). -/
def execUeZ11 (x : BitVec 11) (s : State) : Host.Outcome State Fault Refusal := codeWord 11 x.toNat s
/-- UE.z12 (R98). -/
def execUeZ12 (x : BitVec 12) (s : State) : Host.Outcome State Fault Refusal := codeWord 12 x.toNat s

/-- UE.malformed (R98, R125): thirteen zeros are read, then MalformedCode. -/
def execUeMalformed (s : State) : Host.Outcome State Fault Refusal :=
  finishUnit (do
    takeSingles (Config.ueMaxZeros + 1)
    let s ← get
    raise .malformedCode s.pos) s

/-- TOK (R99, R100): the pair on the result ports of RLV.DECODE. -/
def execTok (run : Nat) (value : Int) (s : State) : Host.Outcome State Fault Refusal :=
  finish (do let t ← consumeToken run value; pure (.token t.1 t.2)) s

/-- What the machine does with stream bits that are no whole word of a format: the format's decoder runs on the
stream itself and raises the error it meets (R101, R124). -/
def runDecoder (f : Format) (s : State) : Host.Outcome State Fault Refusal :=
  match f with
  | .hdr => finishUnit (parseHeader readField) s
  | .ue => finish (do let v ← readCode; pure (.code v)) s
  | .tok => finish (do let t ← readToken; pure (.token t.1 t.2)) s

end Sys2Proof.Machine
end

