-- ==== Sys2Proof/Machine/Dispatch.lean ====
section
/-! DEFINITION. One arm per row of spec/opcode_table.json. -/

namespace Sys2Proof.Machine

def exec (i : Instr) (s : State) : Host.Outcome State Fault Refusal :=
  match i with
  | .reset => Sys2Proof.Machine.execReset s
  | .construct input dest => Sys2Proof.Machine.execConstruct input dest s
  | .config c l prescale => Sys2Proof.Machine.execConfig c l prescale s
  | .decode offsetX offsetY => Sys2Proof.Machine.execDecode offsetX offsetY s
  | .status => Sys2Proof.Machine.execStatus s
  | .brRead n => Sys2Proof.Machine.execBrRead n s
  | .brPeek n => Sys2Proof.Machine.execBrPeek n s
  | .brAtEnd => Sys2Proof.Machine.execBrAtEnd s
  | .rlvDecode => Sys2Proof.Machine.execRlvDecode s
  | .logBuild => Sys2Proof.Machine.execLogBuild s
  | .logDecode v => Sys2Proof.Machine.execLogDecode v s
  | .plCreate width height => Sys2Proof.Machine.execPlCreate width height s
  | .plClear plane => Sys2Proof.Machine.execPlClear plane s
  | .plRead plane x y => Sys2Proof.Machine.execPlRead plane x y s
  | .plWrite plane x y value => Sys2Proof.Machine.execPlWrite plane x y value s
  | .plView plane x0 y0 w h => Sys2Proof.Machine.execPlView plane x0 y0 w h s
  | .lvInit lv width height numBands => Sys2Proof.Machine.execLvInit lv width height numBands s
  | .lvClear lv => Sys2Proof.Machine.execLvClear lv s
  | .lvSetValid lv band => Sys2Proof.Machine.execLvSetValid lv band s
  | .lvIsValid lv band => Sys2Proof.Machine.execLvIsValid lv band s
  | .lvAllValid lv => Sys2Proof.Machine.execLvAllValid lv s
  | .lvDequant out inp quant => Sys2Proof.Machine.execLvDequant out inp quant s
  | .lvRecon lv dest prescale clamp => Sys2Proof.Machine.execLvRecon lv dest prescale clamp s
  | .lvBandPlane lv band => Sys2Proof.Machine.execLvBandPlane lv band s
  | .ctLevel c l => Sys2Proof.Machine.execCtLevel c l s
  | .ctPrescale c l => Sys2Proof.Machine.execCtPrescale c l s
  | .hdrParse => Sys2Proof.Machine.execHdrParse s
  | .bandFill lv band => Sys2Proof.Machine.execBandFill lv band s
  | .hdr h => Sys2Proof.Machine.execHdr h s
  | .ueZ0 => Sys2Proof.Machine.execUeZ0 s
  | .ueZ1 x => Sys2Proof.Machine.execUeZ1 x s
  | .ueZ2 x => Sys2Proof.Machine.execUeZ2 x s
  | .ueZ3 x => Sys2Proof.Machine.execUeZ3 x s
  | .ueZ4 x => Sys2Proof.Machine.execUeZ4 x s
  | .ueZ5 x => Sys2Proof.Machine.execUeZ5 x s
  | .ueZ6 x => Sys2Proof.Machine.execUeZ6 x s
  | .ueZ7 x => Sys2Proof.Machine.execUeZ7 x s
  | .ueZ8 x => Sys2Proof.Machine.execUeZ8 x s
  | .ueZ9 x => Sys2Proof.Machine.execUeZ9 x s
  | .ueZ10 x => Sys2Proof.Machine.execUeZ10 x s
  | .ueZ11 x => Sys2Proof.Machine.execUeZ11 x s
  | .ueZ12 x => Sys2Proof.Machine.execUeZ12 x s
  | .ueMalformed => Sys2Proof.Machine.execUeMalformed s
  | .tok run value => Sys2Proof.Machine.execTok run value s

end Sys2Proof.Machine
end

