-- ==== Sys2Proof/Machine/Step.lean ====
section
/-! DEFINITION. One step: the next request is presented and completes (spec/10_state.md R21, spec/60_exceptions.md
R236; log 1). With no request the machine holds its state (R238). -/

namespace Sys2Proof.Machine

/-- A host command: a code the interface does not admit raises BadCommand (R236). -/
def runHost (code : BitVec 8) (ports : Ports) (s : State) : Host.Outcome State Fault Refusal :=
  if hostMayIssue code then
    match decodeCommand code ports with
    | .ok i => exec i s
    | .error _ => refuseCommand code s
  else refuseCommand code s

/-- A unit operation; a code that names none is an illegal command (`30_encoding.md` R101; log 20). DESIGN CHOICE (log
28): a code 0x00 to 0x04, which R91 gives to the host alone, does here what it does when the host presents it. -/
def runUnit (code : BitVec 8) (ports : Ports) (s : State) : Host.Outcome State Fault Refusal :=
  match decodeCommand code ports with
  | .ok i => exec i s
  | .error _ => refuseCommand code s

/-- The stream word at POS (log 4, log 26). -/
def runStream (f : Format) (s : State) : Host.Outcome State Fault Refusal :=
  match decodeStream f (streamRest s) with
  | .ok (i, _) => exec i s
  | .error _ => runDecoder f s

/-- One request. -/
def runRequest (r : Request) (s : State) : Host.Outcome State Fault Refusal :=
  match r with
  | .host code ports => runHost code ports s
  | .unit code ports => runUnit code ports s
  | .stream f => runStream f s

/-- One step. -/
def step (s : State) : Host.Outcome State Fault Refusal :=
  match s.inbox with
  | [] => .next s
  | r :: rest => runRequest r (setInbox rest s)

/-- The bytes of a bit string, zero bits after its end. -/
def bitsToBytes : Nat → List Bool → List Byte
  | 0, _ => []
  | n + 1, bs => BitVec.ofNat 8 (bitsToNat ((bs ++ List.replicate 8 false).take 8)) :: bitsToBytes n (bs.drop 8)

/-- A word of spec/opcode_table.json put where the next step runs it (log 1, log 3): a command becomes the next
request; a stream word is stored at the start of the host's memory, IN is bound to it (16 zero bytes follow), POS is
0, and the next request is the word at POS. -/
def State.withFetchWord (s : State) (nbits w : Nat) : State :=
  match tableRequest nbits w with
  | .stream f =>
    { s with
      inbox := .stream f :: s.inbox
      pos := 0
      mem := storeBytes s.mem 0 (bitsToBytes (nbits / 8 + 16) (tableBits nbits w))
      binding := some ⟨⟨0, nbits / 8 + 16⟩, (s.binding.map Binding.dest).getD ⟨0, 0, 0, 0⟩⟩ }
  | r => { s with inbox := r :: s.inbox }

end Sys2Proof.Machine
end

