-- ==== Sys2Proof/Safety.lean ====
section
/-! DEFINITION. The terms the claims use: reads of one coefficient, what a legal state is (spec/10_state.md,
spec/42_plane.md R150, spec/60_exceptions.md R221), the header checks as the table of
spec/44_channel_orchestrator.md R196, the content a stream stands for, and the synthesis point by point. -/

namespace Sys2Proof.Machine

/-! ## Errors and the session -/

/-- The state after an operation that raised in state `s`, with its result ports empty. -/
def trapped (c : Cause) (info : Nat) (s : State) : State := setResult .none (takeError c info s)

/-- The causes of `60_exceptions.md` R221, in its order. -/
def allCauses : List Cause :=
  [.channelCount, .subbandCount, .waveletCount, .subbandLevelMismatch, .imageWidth, .imageHeight, .patternWidth,
   .patternHeight, .patternChannels, .formatTag, .bitsPerComponent, .lowpassPrecision, .readerOverrun,
   .malformedCode, .logIndex, .runOverflow, .bandsNotValid, .badCommand, .sessionState, .badBitCount,
   .badDimensions, .planeBounds, .danglingView, .planeMismatch, .levelIndex, .levelState, .badBandCount,
   .bandIndex, .sinkMode, .destRegion, .badDest]

/-- The error register holds a kind and cause that R221 lists together. -/
abbrev errListed (e : Err) : Prop := ∃ c ∈ allCauses, e.kind = causeKind c ∧ e.cause = causeCode c

/-- IN and a destination image that CONSTRUCT accepts are bound (`44_channel_orchestrator.md` R193). -/
def boundLegal (s : State) : Bool :=
  s.binding.any fun b => decide (b.dest.w ≠ 0 ∧ b.dest.h ≠ 0 ∧ 1 ≤ b.dest.depth ∧ b.dest.depth ≤ 16)

/-- The session state as a host command finds it (`70_reset_and_hazards.md` R253): never RUNNING; an error is
recorded exactly in FAULTED (`10_state.md` R25, R26); IDLE has no binding (R40), READY and DONE a legal one. -/
abbrev sessionLegal (s : State) : Prop :=
  s.sess ≠ .running ∧
  (s.sess = .faulted → errListed s.err) ∧
  (s.sess ≠ .faulted → s.err = Err.none) ∧
  (s.sess = .idle → s.binding = none) ∧
  (s.sess = .ready ∨ s.sess = .done → boundLegal s = true)

/-- `0 ≤ POS ≤ END` (`10_state.md` R24). -/
abbrev cursorLegal (s : State) : Prop := s.pos ≤ streamEnd s

/-- LOGT has 4096 entries (`10_state.md` R30) and, once built, they are the companding law's (`41_logtable.md`
R142). -/
abbrev tableLegal (s : State) : Prop := s.logt.length = 4096 ∧ (s.logtValid = true → s.logt = logTable)

/-- The table of `10_state.md` R40. It leaves out LOGT, whose content R40 does not specify, IN and DEST, which are
not the hardware's, and the model's own result ports and inbox. -/
abbrev resetValues (s : State) : Prop :=
  s.sess = .idle ∧ s.pos = 0 ∧ s.seq = ⟨.hdr, 0, 0, 0, 0⟩ ∧ s.err = ⟨0, 0, 0⟩ ∧
  s.hdr = ⟨0, 0, 0, 0, 0, 0, 0, 0, 0, 0, Vector.replicate 16 0, 0⟩ ∧ s.quant = Vector.replicate 10 0 ∧
  (∀ c < 4, ∀ l < 3, prescaleAt s c l = 0) ∧ s.logtValid = false ∧
  (∀ c < 4, ∀ l < 3,
    levelAt s c l = ⟨false, 0, 0, 0, 0, 0, Vector.replicate 4 ⟨⟨none, 0, 0, 0, 0, false, 0⟩, 0⟩⟩) ∧
  s.bufs = [] ∧ s.nextBuf = 0 ∧ s.offx = 0 ∧ s.offy = 0 ∧ s.binding = none

/-! ## Coefficients and planes -/

/-- `MemRead((COEF, id, e), 1)` (`20_memory.md` R60): `none` at an address that does not exist. -/
def coefAt (s : State) (id e : Nat) : Option Coef :=
  (bufFind s.bufs id).bind fun b => if e < b.len then some (cellRead b.cells e) else none

/-- The element (x, y) of a plane, wherever its address lies (`42_plane.md` R152). -/
def planeAt (s : State) (p : Plane) (x y : Nat) : Option Coef :=
  p.buf.bind fun id => coefAt s id (planeAddr p x y)

/-- The length of the buffer of a plane; 0 with none, and for a descriptor from before a RESET. -/
def planeLen (s : State) (p : Plane) : Nat :=
  if p.epoch = s.epoch then ((p.buf.bind (bufFind s.bufs)).map Buffer.len).getD 0 else 0

/-- The invariants of a plane (`42_plane.md` R150): stride ≥ width ≥ 1, height ≥ 1, every element inside its
buffer (so the buffer is there). -/
abbrev planeLegal (s : State) (p : Plane) : Prop :=
  p.width.toNat ≤ p.stride.toNat ∧ 1 ≤ p.width.toNat ∧ 1 ≤ p.height.toNat ∧
  p.base + (p.height.toNat - 1) * p.stride.toNat + p.width.toNat ≤ planeLen s p

/-- A RESET came since the descriptor was made, its buffer is not in BUF, or it is null (`42_plane.md` R157,
`70_reset_and_hazards.md` R257). -/
abbrev dangling (s : State) (p : Plane) : Prop := p.epoch ≠ s.epoch ∨ p.buf.bind (bufFind s.bufs) = none

/-- The address (id, e) of COEF is one of the elements of a plane. -/
def inPlane (p : Plane) (id e : Nat) : Prop :=
  p.buf = some id ∧ ∃ x y, x < p.width.toNat ∧ y < p.height.toNat ∧ e = planeAddr p x y

/-- Every store is in its canonical form: IN and DEST, buffer ids rising, every buffer's cells canonical and inside
its length. -/
abbrev storageWf (s : State) : Prop :=
  Memory.wf s.mem ∧ Cells.wf s.dest ∧ (s.bufs.Pairwise fun a b => a.1 < b.1) ∧
  ∀ e ∈ s.bufs, Cells.wf e.2.cells ∧ ∀ c ∈ e.2.cells, c.1 < e.2.len

/-! ## Levels -/

/-- A declared band's plane: made by PL.CREATE with the level's size, over the whole of its buffer
(`43_level.md` R166). -/
abbrev bandOwned (s : State) (lev : Level) (p : Plane) : Prop :=
  p.buf.isSome = true ∧ p = ⟨p.buf, 0, lev.width, lev.height, lev.width, true, s.epoch⟩ ∧
  planeLen s p = lev.width.toNat * lev.height.toNat

/-- A level is Uninitialized with every field at its reset value, or initialized with 1 to 4 declared bands, a mask
inside them, and one owned plane per declared band (`43_level.md` R165, R166; `10_state.md` R32). -/
abbrev levelLegal (s : State) (lev : Level) : Prop :=
  (lev.init = false → lev = Level.reset) ∧
  (lev.init = true →
    1 ≤ lev.numBands.toNat ∧ lev.numBands.toNat ≤ 4 ∧ lev.valid.toNat < 2 ^ lev.numBands.toNat ∧
    lev.width ≠ 0 ∧ lev.height ≠ 0 ∧ lev.stride = lev.width ∧
    ∀ b < 4, (b < lev.numBands.toNat → bandOwned s lev (bandAt lev b).plane) ∧
      (lev.numBands.toNat ≤ b → (bandAt lev b).plane = Plane.null))

/-- The buffer ids of every declared band of every level. -/
def levelIds (s : State) : List Nat :=
  (List.range 4).flatMap fun c => (List.range 3).flatMap fun l => levelBufs (levelAt s c l)

/-- Every level is legal, no two bands share a buffer, and buffer ids in use are below NEXT_BUF, so a new id is
fresh (`10_state.md` R34, `70_reset_and_hazards.md` R257). -/
abbrev levelsLegal (s : State) : Prop :=
  (∀ c < 4, ∀ l < 3, levelLegal s (levelAt s c l)) ∧ (levelIds s).Nodup ∧
  (∀ id ∈ levelIds s, id < s.nextBuf) ∧ ∀ e ∈ s.bufs, e.1 < s.nextBuf

/-- Every level is as reset leaves it. -/
abbrev levelsReset (s : State) : Prop := ∀ c < 4, ∀ l < 3, levelAt s c l = Level.reset

/-- What BAND.FILL, LV.BANDPLANE and the mask operations check of a level reference and a band, passed. -/
abbrev bandReady (s : State) (lv : LevelRef) (b : Nat) : Prop :=
  lv.c.toNat ≤ 3 ∧ lv.l.toNat ≤ 2 ∧ (levelAt s lv.c.toNat lv.l.toNat).init = true ∧
  b < (levelAt s lv.c.toNat lv.l.toNat).numBands.toNat

/-! ## The header (`44_channel_orchestrator.md` R196) -/

/-- The checks in their order: the number of fields read so far, whether the check fails, its cause, its info. -/
def headerChecks (h : HdrFields) (depth : Nat) : List (Nat × Bool × Cause × Nat) :=
  let nc := h.numChannels.toNat
  let nsb := h.numSubbands.toNat
  let nw := h.numWavelets.toNat
  let w := h.imageWidth.toNat
  let ht := h.imageHeight.toNat
  let pw := h.patternWidth.toNat
  let ph := h.patternHeight.toNat
  let bpc := h.bitsPerComponent.toNat
  let lpp := h.lowpassPrecision.toNat
  [(1, decide (¬(1 ≤ nc ∧ nc ≤ 4)), .channelCount, nc),
   (2, decide (¬(1 ≤ nsb ∧ nsb ≤ 10)), .subbandCount, nsb),
   (3, decide (¬(1 ≤ nw ∧ nw ≤ 3)), .waveletCount, nw),
   (3, decide (nsb ≠ 3 * nw + 1), .subbandLevelMismatch, nsb),
   (4, decide (w = 0), .imageWidth, w),
   (5, decide (ht = 0), .imageHeight, ht),
   (6, decide (¬(1 ≤ pw ∧ w % pw = 0 ∧ w / pw % 2 ^ nw = 0)), .patternWidth, pw),
   (7, decide (¬(1 ≤ ph ∧ ht % ph = 0 ∧ ht / ph % 2 ^ nw = 0)), .patternHeight, ph),
   (7, decide (pw * ph ≠ nc), .patternChannels, pw * ph),
   (8, decide (h.formatTag.toNat ∉ Config.formatTags), .formatTag, h.formatTag.toNat),
   (9, decide (¬(1 ≤ bpc ∧ bpc ≤ 16 ∧ bpc ≤ depth)), .bitsPerComponent, bpc),
   (10, decide (¬(1 ≤ lpp ∧ lpp ≤ 16)), .lowpassPrecision, lpp)]

/-- The first check that fails: the fields read by then, the cause and the info. -/
def headerFault (h : HdrFields) (depth : Nat) : Option (Nat × Cause × Nat) :=
  ((headerChecks h depth).find? fun c => c.2.1).map fun c => (c.1, c.2.2)

/-- A header every check of which passes, with its quantization entries. -/
abbrev headerLegal (h : HeaderWord) (depth : Nat) : Prop := headerFault h.fields depth = none ∧ h.wf

/-- The header registers after the first `k` of the ten scalar fields of `new` were stored over `old`. -/
def headerPrefix (k : Nat) (new old : HdrFields) : HdrFields where
  numChannels := if 1 ≤ k then new.numChannels else old.numChannels
  numSubbands := if 2 ≤ k then new.numSubbands else old.numSubbands
  numWavelets := if 3 ≤ k then new.numWavelets else old.numWavelets
  imageWidth := if 4 ≤ k then new.imageWidth else old.imageWidth
  imageHeight := if 5 ≤ k then new.imageHeight else old.imageHeight
  patternWidth := if 6 ≤ k then new.patternWidth else old.patternWidth
  patternHeight := if 7 ≤ k then new.patternHeight else old.patternHeight
  formatTag := if 8 ≤ k then new.formatTag else old.formatTag
  bitsPerComponent := if 9 ≤ k then new.bitsPerComponent else old.bitsPerComponent
  lowpassPrecision := if 10 ≤ k then new.lowpassPrecision else old.lowpassPrecision
  sequenceId := old.sequenceId
  sequenceNumber := old.sequenceNumber

/-- Where the field starts in which the bit at position `k` of a header lies (`30_encoding.md` R93). -/
def headerCut (k : Nat) : Nat :=
  if k < 160 then 16 * (k / 16) else if k < 288 then 8 * (k / 8) else if k < 320 then 288 else 16 * (k / 16)

/-- The header registers after the fields of `new` that end within its first `k` bits were stored over `old`. -/
def headerStored (k : Nat) (new old : HdrFields) : HdrFields :=
  { headerPrefix (k / 16) new old with
    sequenceId := Vector.ofFn fun j =>
      if 168 + 8 * j.val ≤ k then new.sequenceId[j.val]?.getD 0 else old.sequenceId[j.val]?.getD 0
    sequenceNumber := if 320 ≤ k then new.sequenceNumber else old.sequenceNumber }

/-! ## What a stream stands for -/

/-- A token the band fill can place: both code words exist (`30_encoding.md` R97) and the value is an index of the
table (`41_logtable.md` R143). -/
abbrev tokenLegal (t : Nat × Int) : Prop := t.1 ≤ 8190 ∧ t.2.natAbs ≤ 4095

/-- The coefficient a token's value expands to (`41_logtable.md` R143, R144). -/
def expandedCoef (v : Int) : Coef := BitVec.ofInt 16 (v.sign * expandLog v.natAbs)

/-- The coefficients a list of tokens stands for (`44_channel_orchestrator.md` R200). -/
def bandCoefs (tokens : List (Nat × Int)) : List Coef :=
  tokens.flatMap fun t => List.replicate t.1 0 ++ [expandedCoef t.2]

/-- Where the read stands that does not fit when a code word is cut after `k` bits: single-bit reads through the zeros
and the 1, then one read of the suffix (`40_bitreader_rlv.md` R125). -/
def codeCut (v k : Nat) : Nat := if k ≤ (v + 1).log2 then k else (v + 1).log2 + 1

/-- The same for a token cut after `k` bits (`40_bitreader_rlv.md` R126): its two code words, then its sign. -/
def tokenCut (run : Nat) (value : Int) (k : Nat) : Nat :=
  let first := (valueBits run).length
  let second := (valueBits value.natAbs).length
  if k < first then codeCut run k
  else if k < first + second then first + codeCut value.natAbs (k - first)
  else k

/-- `tail` starts with no whole token: RLV.DECODE raises `cause` there after `k` bits (`40_bitreader_rlv.md` R124 to
R126). -/
def tokenFault (tail : List Bool) (k : Nat) (cause : Cause) : Prop :=
  (cause = .malformedCode ∧ k = 13 ∧ ∃ rest, tail = List.replicate 13 false ++ rest) ∨
  (cause = .malformedCode ∧ ∃ run rest, run ≤ 8190 ∧ k = (valueBits run).length + 13 ∧
    tail = valueBits run ++ List.replicate 13 false ++ rest) ∨
  (cause = .readerOverrun ∧ ∃ run value j, run ≤ 8190 ∧ Int.natAbs value ≤ 8190 ∧
    j < (tokenBits run value).length ∧ k = tokenCut run value j ∧ tail = (tokenBits run value).take j)

/-- The bits of a list of tokens (`30_encoding.md` R96). -/
def tokensBits (tokens : List (Nat × Int)) : List Bool := tokens.flatMap fun t => tokenBits t.1 t.2

/-- BAND.FILL can start, its band on buffer `id`, and the tokens `done` leave part of the band to fill. -/
abbrev fillReady (s : State) (lv : LevelRef) (b id : Nat) (done : List (Nat × Int)) : Prop :=
  storageWf s ∧ tableLegal s ∧ bandReady s lv b ∧ levelLegal s (levelAt s lv.c.toNat lv.l.toNat) ∧
  (bandAt (levelAt s lv.c.toNat lv.l.toNat) b).plane.buf = some id ∧ (∀ t ∈ done, tokenLegal t) ∧
  (bandCoefs done).length <
    (levelAt s lv.c.toNat lv.l.toNat).width.toNat * (levelAt s lv.c.toNat lv.l.toNat).height.toNat

/-- `s` with the registers BAND.FILL leaves `extra` bits after the tokens `done` it placed: SEQ.idx is written after
each (`44_channel_orchestrator.md` R204), and `built` says whether an expansion has built the table (`41_logtable.md`
R143). -/
def afterTokens (done : List (Nat × Int)) (extra : Nat) (built : Bool) (s : State) : State :=
  { s with
    pos := s.pos + (tokensBits done).length + extra
    seq := if done = [] then s.seq else { s.seq with idx := BitVec.ofNat 32 (bandCoefs done).length }
    logt := if built then logTable else s.logt
    logtValid := built || s.logtValid }

/-- The band on buffer `id` holds the elements of the tokens `done`, and no other buffer changed from `s` to `u`. -/
def fillKept (s u : State) (id : Nat) (done : List (Nat × Int)) : Prop :=
  (∀ e < (bandCoefs done).length, coefAt u id e = (bandCoefs done)[e]?) ∧
  ∀ id' e, id' ≠ id → coefAt u id' e = coefAt s id' e

/-- The width of one channel's plane (`44_channel_orchestrator.md` R197). -/
def planeWidth (h : HdrFields) : Nat := h.imageWidth.toNat / h.patternWidth.toNat

/-- The height of one channel's plane (R197). -/
def planeHeight (h : HdrFields) : Nat := h.imageHeight.toNat / h.patternHeight.toNat

/-- The level a subband belongs to (R199). -/
def subbandLevel (numLevels sb : Nat) : Nat := numLevels - 1 - (sb - 1) / 3

/-- The number of elements of a subband (R197). -/
def subbandSize (h : HdrFields) (sb : Nat) : Nat :=
  (planeWidth h / 2 ^ (subbandLevel h.numWavelets.toNat sb + 1)) *
    (planeHeight h / 2 ^ (subbandLevel h.numWavelets.toNat sb + 1))

/-- The bits after the header (`30_encoding.md` R96): channel by channel, subband by subband. -/
def bodyBits (h : HdrFields) (tokens : Nat → Nat → List (Nat × Int)) : List Bool :=
  (List.range h.numChannels.toNat).flatMap fun c =>
    (List.range h.numSubbands.toNat).flatMap fun sb => tokensBits (tokens c sb)

/-- Every subband's tokens are legal and stand for exactly its elements. -/
abbrev bodyLegal (h : HdrFields) (tokens : Nat → Nat → List (Nat × Int)) : Prop :=
  ∀ c < h.numChannels.toNat, ∀ sb < h.numSubbands.toNat,
    (∀ t ∈ tokens c sb, tokenLegal t) ∧ (bandCoefs (tokens c sb)).length = subbandSize h sb

/-- A session ready to decode the legal stream `header, tokens` at POS into a destination that holds its region. -/
abbrev decodeReady (s : State) (b : Binding) (offsetX offsetY : U16) (h : HeaderWord)
    (tokens : Nat → Nat → List (Nat × Int)) : Prop :=
  s.sess = .ready ∧ s.binding = some b ∧ levelsReset s ∧ tableLegal s ∧ storageWf s ∧
  headerLegal h b.dest.depth ∧ bodyLegal h.fields tokens ∧
  offsetX.toNat + h.fields.imageWidth.toNat ≤ b.dest.w.toNat ∧
  offsetY.toNat + h.fields.imageHeight.toNat ≤ b.dest.h.toNat ∧
  ∃ rest, streamRest s = headerBits h ++ bodyBits h.fields tokens ++ rest

/-! ## The dequantizer and the synthesis, point by point -/

/-- One dequantized element (`43_level.md` R171). -/
def dequantized (quant : U16) (v : Coef) : Coef :=
  if quant = 0 then v else BitVec.ofInt 16 (v.toInt * quant.toInt)

/-- The positions of a plane in row-major order, as the loop of R171 visits them. -/
def rowMajor (w h : Nat) : List (Nat × Nat) :=
  (List.range h).flatMap fun y => (List.range w).map fun x => (x, y)

/-- The positions before (x, y) in row-major order, of a plane of width `w`. -/
def rowMajorBefore (w x y : Nat) : List (Nat × Nat) := rowMajor w y ++ (List.range x).map fun x' => (x', y)

/-- (x, y) is the first position of a `w` by `h` plane in row-major order with `P`. -/
def firstOutside (w h x y : Nat) (P : Nat → Nat → Prop) : Prop :=
  x < w ∧ y < h ∧ P x y ∧ ∀ x' y', x' < w → (y' < y ∨ y' = y ∧ x' < x) → ¬P x' y'

/-- The coefficient storage as a function of the address; 0 where there is none. -/
def coefMap (s : State) : Nat → Nat → Coef := fun id e => (coefAt s id e).getD 0

/-- One turn of the loop of R171 on the storage `m`, from (id, e) to (id', e'). -/
def dequantTurn (quant : U16) (m : Nat → Nat → Coef) (id e id' e' : Nat) : Nat → Nat → Coef :=
  fun i k => if i = id' ∧ k = e' then dequantized quant (m id e) else m i k

/-- Element `j` of the output of kernel K0 on two lines of `n` elements (`43_level.md` R176, R177). -/
def kernelAt (low high : Nat → Int) (n j : Nat) : Int :=
  let i := j / 2
  let c := asr (low (i - 1) - low (min (i + 1) (n - 1)) + 4) 3
  let d := high i + c
  let odd := low i - asr d 1
  if j % 2 = 1 then odd else odd + d

/-- `S[Y][X]` of the synthesis of four `w` by `h` bands `B k x y` (`43_level.md` R178). -/
def synthAt (B : Nat → Nat → Nat → Int) (w h X Y : Nat) : Int :=
  kernelAt (fun y => kernelAt (fun x => B 0 x y) (fun x => B 1 x y) w X)
    (fun y => kernelAt (fun x => B 2 x y) (fun x => B 3 x y) w X) h Y

/-- `B_k(x, y)` of a level (`43_level.md` R175). -/
def bandValue (s : State) (lev : Level) (k x y : Nat) : Int :=
  if k < lev.numBands.toNat then ((planeAt s (bandAt lev k).plane x y).getD 0).toInt else 0

/-- The value LV.RECON writes at (X, Y) (`43_level.md` R174, R179). -/
def reconValue (s : State) (lev : Level) (prescale : BitVec 4) (clamp : Bool) (X Y : Nat) : Int :=
  let v := synthAt (bandValue s lev) lev.width.toNat lev.height.toNat X Y / 2 ^ prescale.toNat
  if clamp then max 0 (min v (2 ^ s.hdr.bitsPerComponent.toNat - 1)) else v

/-- The lowpass half of the forward fixture of K0 (`95_test_vectors.md` section 4). -/
def fwdLow (x : Nat → Int) (i : Nat) : Int := x (2 * i + 1) + (x (2 * i) - x (2 * i + 1)) / 2

/-- The highpass half of the forward fixture, on a line of `2 * n` elements. -/
def fwdHigh (x : Nat → Int) (n i : Nat) : Int :=
  x (2 * i) - x (2 * i + 1) - (fwdLow x (i - 1) - fwdLow x (min (i + 1) (n - 1)) + 4) / 8

/-- The bands of the forward transform of an image of `2 * w` by `2 * h` (`95_test_vectors.md` section 4, Fwd2D). -/
def fwdBand (img : Nat → Nat → Int) (w h : Nat) : Nat → Nat → Nat → Int
  | 0, x, y => fwdLow (fun X => fwdLow (fun Y => img X Y) y) x
  | 1, x, y => fwdHigh (fun X => fwdLow (fun Y => img X Y) y) w x
  | 2, x, y => fwdLow (fun X => fwdHigh (fun Y => img X Y) h y) x
  | _, x, y => fwdHigh (fun X => fwdHigh (fun Y => img X Y) h y) w x

/-! ## The image a stream stands for -/

/-- Element (x, y) of a coded band of channel `c` after its dequantization (`44_channel_orchestrator.md` R202): the
lowpass band is not dequantized. -/
def codedValue (h : HeaderWord) (tokens : Nat → Nat → List (Nat × Int)) (c l b x y : Nat) : Int :=
  let sb := subbandOf h.fields.numWavelets.toNat l b
  let w := planeWidth h.fields / 2 ^ (l + 1)
  let v := (bandCoefs (tokens c sb)).getD (y * w + x) 0
  (if b = 0 then v else dequantized (h.quant.getD sb 0) v).toInt

/-- Element (x, y) of the lowpass band of the level `k` steps below the coarsest: coded at the coarsest, else the
narrowed, prescaled synthesis of the level above (R202, `43_level.md` R180). -/
def lowpassValue (h : HeaderWord) (tokens : Nat → Nat → List (Nat × Int)) (prescale : Nat → Nat) (c : Nat) :
    Nat → Nat → Nat → Int
  | 0, x, y => codedValue h tokens c (h.fields.numWavelets.toNat - 1) 0 x y
  | k + 1, x, y =>
    let l := h.fields.numWavelets.toNat - 1 - k
    let B := fun b x y =>
      if b = 0 then lowpassValue h tokens prescale c k x y else codedValue h tokens c l b x y
    (BitVec.ofInt 16
      (synthAt B (planeWidth h.fields / 2 ^ (l + 1)) (planeHeight h.fields / 2 ^ (l + 1)) x y / 2 ^ prescale l)).toInt

/-- The sample of channel `c` at (X, Y) of its plane (R202, R203). -/
def imageValue (h : HeaderWord) (tokens : Nat → Nat → List (Nat × Int)) (prescale : Nat → Nat) (c X Y : Nat) : Int :=
  let B := fun b x y =>
    if b = 0 then lowpassValue h tokens prescale c (h.fields.numWavelets.toNat - 1) x y
    else codedValue h tokens c 0 b x y
  max 0 (min (synthAt B (planeWidth h.fields / 2) (planeHeight h.fields / 2) X Y / 2 ^ prescale 0)
    (2 ^ h.fields.bitsPerComponent.toNat - 1))

end Sys2Proof.Machine
end

