-- ==== Sys2Proof/Certificates/Slice0/Obligations.lean ====
section
/-! DEFINITION. The statements for the provers, one `Obligations.<Name>` each, from the numbered rules of spec/.

Where a statement gives `result`, it says what the result ports of R92 show when the operation has completed; that
State holds them until the next operation is the model's choice (log 13). The field `epoch` of State and of a plane
descriptor is the model's own (log 22). -/

section
open Sys2Proof Sys2Proof.Machine

/-! ## Encoding -/

/-- Decoding the encoding of a well-formed instruction gives it back: all 28 select codes with their ports
(`30_encoding.md` R91, R92) and all stream words (R93 to R100). -/
def Obligations.DecodeOfEncode : Prop := ∀ i : Instr, i.WellFormed → decode (encode i) = .ok i

/-- The stream decoder takes exactly one word and leaves the rest: it answers `i` and `rest` if and only if the bits
are the encoding of the well-formed `i` followed by `rest` (R93, R97, R99, R100: there is one encoding of each
pair). -/
def Obligations.StreamDecodeExact : Prop :=
  ∀ (f : Format) (bs rest : List Bool) (i : Instr),
    decodeStream f bs = .ok (i, rest) ↔ i.WellFormed ∧ ∃ bits, encode i = .stream f bits ∧ bs = bits ++ rest

/-- The code is a prefix code, and every bit string of 25 bits or more starts with a word of a UE row (R98). -/
def Obligations.CodeWordsPrefixFree : Prop :=
  (∀ (i j : Instr) (x y : List Bool), encode i = .stream .ue x → encode j = .stream .ue y → x <+: y → i = j) ∧
  ∀ bs : List Bool, 25 ≤ bs.length → ∃ i bits, encode i = .stream .ue bits ∧ bits <+: bs

/-- The value of every code word: row `UE.z<k>` with suffix `x` is the word of `2^k - 1 + x`, its length `2 k + 1`
(R97, R98). -/
def Obligations.CodeWordTable : Prop :=
  encode .ueZ0 = .stream .ue (valueBits 0) ∧
  (∀ x : BitVec 1, encode (.ueZ1 x) = .stream .ue (valueBits (1 + x.toNat))) ∧
  (∀ x : BitVec 2, encode (.ueZ2 x) = .stream .ue (valueBits (3 + x.toNat))) ∧
  (∀ x : BitVec 3, encode (.ueZ3 x) = .stream .ue (valueBits (7 + x.toNat))) ∧
  (∀ x : BitVec 4, encode (.ueZ4 x) = .stream .ue (valueBits (15 + x.toNat))) ∧
  (∀ x : BitVec 5, encode (.ueZ5 x) = .stream .ue (valueBits (31 + x.toNat))) ∧
  (∀ x : BitVec 6, encode (.ueZ6 x) = .stream .ue (valueBits (63 + x.toNat))) ∧
  (∀ x : BitVec 7, encode (.ueZ7 x) = .stream .ue (valueBits (127 + x.toNat))) ∧
  (∀ x : BitVec 8, encode (.ueZ8 x) = .stream .ue (valueBits (255 + x.toNat))) ∧
  (∀ x : BitVec 9, encode (.ueZ9 x) = .stream .ue (valueBits (511 + x.toNat))) ∧
  (∀ x : BitVec 10, encode (.ueZ10 x) = .stream .ue (valueBits (1023 + x.toNat))) ∧
  (∀ x : BitVec 11, encode (.ueZ11 x) = .stream .ue (valueBits (2047 + x.toNat))) ∧
  (∀ x : BitVec 12, encode (.ueZ12 x) = .stream .ue (valueBits (4095 + x.toNat))) ∧
  ∀ v, (valueBits v).length = 2 * (v + 1).log2 + 1

/-- Words written out from the spec: select codes of R91, code words and tokens of R98 and R100; and the select codes
R91 does not list are rejected (R101). -/
def Obligations.SpecWordsDecode : Prop :=
  (∀ p, decodeCommand 0x03#8 p = .ok (.decode p.offsetX p.offsetY)) ∧
  (∀ p, decodeCommand 0x31#8 p = .ok (.logDecode p.v)) ∧
  (∀ p, decodeCommand 0x43#8 p = .ok (.plWrite p.plane p.x p.y p.value)) ∧
  (∀ p, decodeCommand 0x56#8 p = .ok (.lvRecon p.lv p.sink p.prescale p.clampToUnsigned)) ∧
  decodeStream .ue [false, false, true, false, false, true] = .ok (.ueZ2 0, [true]) ∧
  decodeStream .ue [false, false, false, false, true, false, true, false, true] = .ok (.ueZ4 5, []) ∧
  decodeStream .tok [false, false, true, false, false, false, false, true, true, false, true] =
    .ok (.tok 3 (-5), []) ∧
  decodeStream .tok [true, true, false] = .ok (.tok 0 0, [false]) ∧
  (∀ code p,
    code.toNat ∈ [0x00, 0x01, 0x02, 0x03, 0x04, 0x10, 0x11, 0x12, 0x20, 0x30, 0x31, 0x40, 0x41, 0x42, 0x43, 0x44,
      0x50, 0x51, 0x52, 0x53, 0x54, 0x55, 0x56, 0x57, 0x60, 0x61, 0x70, 0x71] ∨
    decodeCommand code p = .error (.badCommand code))

/-! ## The step -/

/-- A step takes the next request from the inbox and runs the instruction its code and ports, or the bits at POS,
decode to; with an empty inbox it changes nothing (`60_exceptions.md` R238; the inbox is log 1). That a host code
presented as a unit request runs too is the model's choice (log 28). -/
def Obligations.StepRunsDecoded : Prop :=
  (∀ s, s.inbox = [] → step s = .next s) ∧
  (∀ s rest code ports i, s.inbox = .host code ports :: rest → code.toNat ≤ 4 → decodeCommand code ports = .ok i →
    step s = exec i { s with inbox := rest }) ∧
  (∀ s rest code ports i, s.inbox = .unit code ports :: rest → decodeCommand code ports = .ok i →
    step s = exec i { s with inbox := rest }) ∧
  ∀ s rest f i after, s.inbox = .stream f :: rest → decodeStream f (streamRest s) = .ok (i, after) →
    step s = exec i { s with inbox := rest }

/-- What the host may issue (R236): a code over 0x04 raises BadCommand with the code as info; CONSTRUCT outside IDLE,
CONFIG and DECODE outside READY raise SessionState with SESS as info. -/
def Obligations.HostAdmission : Prop :=
  (∀ s rest code ports, s.inbox = .host code ports :: rest → 4 < code.toNat →
    step s = .next (trapped .badCommand code.toNat { s with inbox := rest })) ∧
  (∀ s input dest, s.sess ≠ .idle →
    exec (.construct input dest) s = .next (trapped .sessionState (sessCode s.sess).toNat s)) ∧
  (∀ s c l p, s.sess ≠ .ready →
    exec (.config c l p) s = .next (trapped .sessionState (sessCode s.sess).toNat s)) ∧
  ∀ s x y, s.sess ≠ .ready → exec (.decode x y) s = .next (trapped .sessionState (sessCode s.sess).toNat s)

/-- Taking an error (R224): the codes of R220 and R221 are latched with the info reduced mod 2^32, SESS becomes
FAULTED, nothing else changes; in FAULTED nothing changes at all. -/
def Obligations.ErrorTaken : Prop :=
  allCauses.map (fun c => ((causeCode c).toNat, (causeKind c).toNat)) =
    [(0x01, 1), (0x02, 1), (0x03, 1), (0x04, 1), (0x05, 1), (0x06, 1), (0x07, 1), (0x08, 1), (0x09, 1), (0x0A, 1),
     (0x0B, 1), (0x0C, 1), (0x20, 2), (0x21, 2), (0x22, 2), (0x23, 2), (0x30, 3), (0x40, 4), (0x41, 4), (0x42, 4),
     (0x43, 4), (0x44, 4), (0x45, 4), (0x46, 4), (0x47, 4), (0x48, 4), (0x49, 4), (0x4A, 4), (0x4B, 4), (0x4C, 4),
     (0x4D, 4)] ∧
  (∀ c, c ∈ allCauses) ∧
  (∀ c info s, s.sess = .faulted → takeError c info s = s) ∧
  ∀ c info s, s.sess ≠ .faulted →
    (takeError c info s).err.info.toNat = info % 2 ^ 32 ∧
    takeError c info s =
      { s with
        sess := .faulted
        err := ⟨causeKind c, causeCode c, (takeError c info s).err.info⟩ }

/-- The first error of a session is the one reported (R227, R228): in FAULTED no instruction but RESET changes ERR or
SESS. -/
def Obligations.FirstErrorStays : Prop :=
  ∀ (i : Instr) (s t : State), exec i s = .next t → i ≠ .reset → s.sess = .faulted →
    t.sess = .faulted ∧ t.err = s.err

/-- The session state machine (`70_reset_and_hazards.md` R253): the next SESS of every host command in every state it
can find, and in FAULTED every command but RESET leaves all state unchanged (but for the result ports, log 13). -/
def Obligations.SessionMachine : Prop :=
  (∀ s t rest code ports, s.inbox = .host code ports :: rest → s.sess ≠ .running → step s = .next t →
    (code = 3#8 ∧ s.sess = .ready → t.sess = .done ∨ t.sess = .faulted) ∧
    (¬(code = 3#8 ∧ s.sess = .ready) →
      t.sess =
        if code = 0#8 then .idle
        else if code = 4#8 then s.sess
        else if code = 1#8 ∧ s.sess = .idle ∧ ports.dest.w ≠ 0 ∧ ports.dest.h ≠ 0 ∧ 1 ≤ ports.dest.depth ∧
          ports.dest.depth ≤ 16 then .ready
        else if code = 2#8 ∧ s.sess = .ready ∧ ports.configL.toNat ≤ 2 then .ready
        else .faulted)) ∧
  ∀ s rest code ports, s.inbox = .host code ports :: rest → s.sess = .faulted → code ≠ 0#8 →
    ∃ r, step s = .next { s with inbox := rest, result := r }

/-! ## Invariants of every step -/

/-- Every step keeps every store in its canonical form. -/
def Obligations.StorageKept : Prop := ∀ s t, storageWf s → step s = .next t → storageWf t

/-- Every step keeps every level legal and every buffer with one owner (`42_plane.md` R150, `43_level.md` R165,
`10_state.md` R34, `70_reset_and_hazards.md` R257). -/
def Obligations.LevelsKept : Prop := ∀ s t, levelsLegal s → step s = .next t → levelsLegal t

/-- Every step keeps the session legal: never RUNNING between commands, an error recorded exactly in FAULTED and with
codes R221 lists, a legal binding in READY and DONE (`10_state.md` R23, R26; R221, R253). -/
def Obligations.SessionKept : Prop := ∀ s t, sessionLegal s → step s = .next t → sessionLegal t

/-- POS never passes END (`10_state.md` R24, `40_bitreader_rlv.md` R124). -/
def Obligations.CursorKept : Prop := ∀ s t, cursorLegal s → step s = .next t → cursorLegal t

/-- LOGT keeps its 4096 entries and, while LOGT_VALID is 1, the companding law's values (`10_state.md` R30,
`41_logtable.md` R142); which law is the spec's default (log 14). -/
def Obligations.TableKept : Prop := ∀ s t, tableLegal s → step s = .next t → tableLegal t

/-- The state after reset meets every invariant above. -/
def Obligations.ResetLegal : Prop :=
  storageWf State.reset ∧ levelsLegal State.reset ∧ sessionLegal State.reset ∧ cursorLegal State.reset ∧
  tableLegal State.reset

/-- The reset values the spec gives (`10_state.md` R40). -/
def Obligations.ResetValues : Prop := resetValues State.reset

/-! ## Rules of the whole machine -/

/-- The hardware never writes IN (`20_memory.md` R74). -/
def Obligations.InputNeverWritten : Prop := ∀ s t, step s = .next t → t.mem = s.mem

/-- A destination sample that changes lies inside the image region and the bound image, and holds at most
bitsPerComponent bits (`20_memory.md` R68, `60_exceptions.md` R226). -/
def Obligations.DestinationSafety : Prop :=
  ∀ s t key, storageWf s → step s = .next t → cellRead t.dest key ≠ cellRead s.dest key →
    ∃ b x y, t.binding = some b ∧ key = destKey b.dest.image x y ∧
      t.offx.toNat ≤ x ∧ x < t.offx.toNat + t.hdr.imageWidth.toNat ∧
      t.offy.toNat ≤ y ∧ y < t.offy.toNat + t.hdr.imageHeight.toNat ∧ x < b.dest.w.toNat ∧ y < b.dest.h.toNat ∧
      (t.hdr.bitsPerComponent.toNat ≤ 16 → (cellRead t.dest key).toNat < 2 ^ t.hdr.bitsPerComponent.toNat)

/-- The mask is monotonic (`43_level.md` R181): a bit of an initialized level stays set, and the level stays
initialized, under every instruction but RESET and LV.CLEAR of that level. -/
def Obligations.MaskMonotonic : Prop :=
  ∀ (i : Instr) (s t : State) (c l b : Nat), exec i s = .next t → c < 4 → l < 3 → b < 4 →
    (levelAt s c l).init = true → validBit (levelAt s c l) b = true → i ≠ .reset →
    (∀ lv, i = .lvClear lv → ¬(lv.c.toNat = c ∧ lv.l.toNat = l)) →
    (levelAt t c l).init = true ∧ validBit (levelAt t c l) b = true

/-- Who writes what (`10_state.md` R23 to R30, R34, R36, R37; `20_memory.md` R74; `70_reset_and_hazards.md` R257): each
piece of state named changes only under the instructions listed for it; POS never decreases but under CONSTRUCT and
RESET; ERR changes only where an error is taken, and under RESET. That the requests still to come stay is the model's
choice (log 1; under RESET log 27), and so is `epoch` (log 22). -/
def Obligations.RegisterWriters : Prop :=
  ∀ (i : Instr) (s t : State), exec i s = .next t →
    (match i with
      | .reset | .hdrParse | .hdr _ | .decode _ _ => True
      | _ => t.hdr = s.hdr ∧ t.quant = s.quant) ∧
    (match i with
      | .reset | .config _ _ _ => True
      | _ => ∀ c l, prescaleAt t c l = prescaleAt s c l) ∧
    (match i with
      | .reset | .decode _ _ => True
      | _ => t.offx = s.offx ∧ t.offy = s.offy) ∧
    (match i with
      | .reset | .construct _ _ => True
      | _ => t.binding = s.binding ∧ s.pos ≤ t.pos) ∧
    (match i with
      | .reset | .construct _ _ | .decode _ _ => True
      | _ => t.sess = s.sess ∨ t.sess = .faulted) ∧
    (match i with
      | .reset | .bandFill _ _ | .decode _ _ => True
      | _ => t.seq = s.seq) ∧
    (match i with
      | .reset | .logBuild | .logDecode _ | .bandFill _ _ | .decode _ _ => True
      | _ => t.logt = s.logt ∧ t.logtValid = s.logtValid) ∧
    (match i with
      | .lvRecon _ _ _ _ | .decode _ _ => True
      | _ => t.dest = s.dest) ∧
    (match i with
      | .reset => True
      | _ => s.nextBuf ≤ t.nextBuf ∧ t.epoch = s.epoch) ∧
    (match i with
      | .reset | .plCreate _ _ | .lvInit _ _ _ _ | .decode _ _ => True
      | _ => t.nextBuf = s.nextBuf) ∧
    (match i with
      | .reset | .construct _ _ | .decode _ _ | .brRead _ | .rlvDecode | .hdrParse | .bandFill _ _ | .hdr _ | .ueZ0
      | .ueZ1 _ | .ueZ2 _ | .ueZ3 _ | .ueZ4 _ | .ueZ5 _ | .ueZ6 _ | .ueZ7 _ | .ueZ8 _ | .ueZ9 _ | .ueZ10 _
      | .ueZ11 _ | .ueZ12 _ | .ueMalformed | .tok _ _ => True
      | _ => t.pos = s.pos) ∧
    (match i with
      | .reset => True
      | _ => t.err = s.err ∨ s.sess ≠ .faulted ∧ t.sess = .faulted) ∧
    (match i with
      | .reset | .lvInit _ _ _ _ | .lvClear _ | .lvSetValid _ _ | .bandFill _ _ | .decode _ _ => True
      | _ => ∀ c l, levelAt t c l = levelAt s c l) ∧
    (match i with
      | .reset | .plCreate _ _ | .plClear _ | .plWrite _ _ _ _ | .lvInit _ _ _ _ | .lvClear _ | .lvDequant _ _ _
      | .lvRecon _ _ _ _ | .bandFill _ _ | .decode _ _ => True
      | _ => t.bufs = s.bufs) ∧
    (match i with
      | .reset | .plCreate _ _ | .lvInit _ _ _ _ | .lvClear _ | .decode _ _ => True
      | _ => ∀ id, (bufFind t.bufs id).isSome = (bufFind s.bufs id).isSome) ∧
    t.mem = s.mem ∧ t.inbox = s.inbox

/-- Lifetime of descriptors (`70_reset_and_hazards.md` R257, `42_plane.md` R157): RESET kills every descriptor made so
far, LV.CLEAR those on its buffers (see LevelClearResult), and a descriptor of a buffer made so far that is dead stays
dead under every instruction. How the machine tells a descriptor from before a RESET is the model's choice
(log 22). -/
def Obligations.DeadStaysDead : Prop :=
  (∀ s t p, exec .reset s = .next t → p.epoch ≤ s.epoch → dangling t p ∧ p.epoch < t.epoch) ∧
  ∀ (i : Instr) (s t : State) (p : Plane), exec i s = .next t → p.epoch ≤ s.epoch →
    (p.epoch = s.epoch → ∀ id, p.buf = some id → id < s.nextBuf) → dangling s p → dangling t p

/-! ## Host commands -/

/-- RESET (`44_channel_orchestrator.md` R206): in every state it answers, with every value of R40, IN and DEST
unchanged; and no other instruction leaves DONE and FAULTED. LOGT's content is left open here (log 11). That the
requests still to come stay (log 27), that the result ports show none (log 13) and that `epoch` grows (log 22) are the
model's choices. -/
def Obligations.ResetCommand : Prop :=
  (∀ p, decodeCommand 0x00#8 p = .ok .reset) ∧
  (∀ s, ∃ t, exec .reset s = .next t ∧ resetValues t ∧ t.mem = s.mem ∧ t.dest = s.dest ∧ t.inbox = s.inbox ∧
    t.result = .none ∧ t.epoch = s.epoch + 1) ∧
  ∀ (i : Instr) (s t : State), exec i s = .next t → i ≠ .reset → s.sess = .done ∨ s.sess = .faulted →
    t.sess = .done ∨ t.sess = .faulted

/-- CONSTRUCT (R193), its checks in their order. -/
def Obligations.ConstructResult : Prop :=
  (∀ p, decodeCommand 0x01#8 p = .ok (.construct p.input p.dest)) ∧
  ∀ s input dest,
    exec (.construct input dest) s = .next
      (if s.sess ≠ .idle then trapped .sessionState (sessCode s.sess).toNat s
      else if dest.w = 0 ∨ dest.h = 0 ∨ dest.depth < 1 ∨ 16 < dest.depth then trapped .badDest dest.depth s
      else { s with binding := some ⟨input, dest⟩, pos := 0, sess := .ready, result := .none }) ∧
    streamEnd { s with binding := some ⟨input, dest⟩ } = 8 * input.len

/-- CONFIG (R194): one prescale register changes, no level. -/
def Obligations.ConfigResult : Prop :=
  (∀ p, decodeCommand 0x02#8 p = .ok (.config p.configC p.configL p.prescale)) ∧
  (∀ s c l p, s.sess ≠ .ready →
    exec (.config c l p) s = .next (trapped .sessionState (sessCode s.sess).toNat s)) ∧
  (∀ s c l p, s.sess = .ready → 2 < l.toNat →
    exec (.config c l p) s = .next (trapped .levelIndex (c.toNat * 256 + l.toNat) s)) ∧
  ∀ s c l p, s.sess = .ready → l.toNat ≤ 2 → ∃ t, exec (.config c l p) s = .next t ∧
    t = { s with ct := t.ct, result := .none } ∧
    (∀ c' l', prescaleAt t c' l' = if c' = c.toNat ∧ l' = l.toNat then p else prescaleAt s c' l') ∧
    ∀ c' l', levelAt t c' l' = levelAt s c' l'

/-- STATUS (R207): in every state it shows SESS, ERR, POS, HDR and QUANT and changes nothing. -/
def Obligations.StatusResult : Prop :=
  (∀ p, decodeCommand 0x04#8 p = .ok .status) ∧
  ∀ s, exec .status s = .next
    { s with
      result := .status
        { state := match s.sess with
            | .idle => 0
            | .ready => 1
            | .running => 2
            | .done => 3
            | .faulted => 4
          kind := s.err.kind
          cause := s.err.cause
          info := s.err.info
          pos := s.pos
          hdr := s.hdr
          quant := s.quant } }

/-- DECODE completes (R201, R202, R204, R205): on a legal stream with all levels uninitialized and the region inside
the destination it ends in DONE with no error, POS just after the last token, the header's registers written, every
level the stream uses valid and the others untouched, and no buffer, sample or register of anyone else changed. The
tags a header may hold and the law in the table are the spec's defaults (log 14). -/
def Obligations.DecodeCompletes : Prop :=
  ∀ s b ox oy h tokens, decodeReady s b ox oy h tokens →
    ∃ t, exec (.decode ox oy) s = .next t ∧
      t = { s with
        sess := .done
        pos := s.pos + (headerBits h).length + (bodyBits h.fields tokens).length
        seq := ⟨.fin, BitVec.ofNat 2 (h.fields.numChannels.toNat - 1), 0, 0, 0⟩
        hdr := h.fields
        quant := t.quant
        ct := t.ct
        logt := logTable
        logtValid := true
        bufs := t.bufs
        nextBuf := s.nextBuf + 4 * h.fields.numChannels.toNat * h.fields.numWavelets.toNat
        offx := ox
        offy := oy
        dest := t.dest
        result := .none } ∧
      (∀ i < 10, quantAt t i = if i < h.fields.numSubbands.toNat then h.quant.getD i 0 else quantAt s i) ∧
      (∀ c < 4, ∀ l < 3,
        if c < h.fields.numChannels.toNat ∧ l < h.fields.numWavelets.toNat then allValid (levelAt t c l) = true
        else levelAt t c l = Level.reset) ∧
      (∀ c l, prescaleAt t c l = prescaleAt s c l) ∧
      (∀ id e, id < s.nextBuf → coefAt t id e = coefAt s id e) ∧
      ∀ key, (∀ x y, ox.toNat ≤ x → x < ox.toNat + h.fields.imageWidth.toNat → oy.toNat ≤ y →
          y < oy.toNat + h.fields.imageHeight.toNat → key ≠ destKey b.dest.image x y) →
        cellRead t.dest key = cellRead s.dest key

/-- DECODE writes the image (R197 to R203 with `41_logtable.md` R143 and `43_level.md` R171, R178 to R180): after a
legal stream every sample of every channel is the clamped, prescaled synthesis of the pyramid its tokens stand for,
at its pattern cell. The law, the kernel, the narrowing and the tags are the spec's defaults (log 14). -/
def Obligations.DecodeImage : Prop :=
  ∀ s b ox oy h tokens, decodeReady s b ox oy h tokens →
    ∃ t, exec (.decode ox oy) s = .next t ∧
      ∀ c X Y, c < h.fields.numChannels.toNat → X < planeWidth h.fields → Y < planeHeight h.fields →
        destSample t b.dest.image
            (ox.toNat + h.fields.patternWidth.toNat * X + c % h.fields.patternWidth.toNat)
            (oy.toNat + h.fields.patternHeight.toNat * Y + c / h.fields.patternWidth.toNat) =
          BitVec.ofInt 16 (imageValue h tokens (fun l => (prescaleAt s c l).toNat) c X Y)

/-- Every instruction completes in every state, and so does every step (`60_exceptions.md` R236: the rules are total
functions; `70_reset_and_hazards.md` R260: every rule gives a value or an error); DECODE in READY ends in DONE or
FAULTED whatever bits the stream holds and whatever levels it finds (`44_channel_orchestrator.md` R204). -/
def Obligations.AlwaysAnswers : Prop :=
  (∀ s, ∃ t, step s = .next t) ∧ (∀ (i : Instr) (s : State), ∃ t, exec i s = .next t) ∧
  ∀ s ox oy, s.sess = .ready →
    ∃ t, exec (.decode ox oy) s = .next t ∧ (t.sess = .done ∧ t.err = s.err ∨ t.sess = .faulted)

/-- With any input bytes whatever, a correct host sees from DECODE only UnsupportedStream, CorruptBitstream or
DestRegion (`60_exceptions.md` R220, R222). In READY DestRegion is raised if the header at POS is legal and its region
does not fit (`44_channel_orchestrator.md` R198, `60_exceptions.md` R223, R229): POS stands just after the header and
no token is read; and only then, whatever the body holds. Which tags are legal is the spec's default (log 14). -/
def Obligations.DecodeCauses : Prop :=
  (∀ s ox oy, levelsReset s → tableLegal s → s.sess = .ready → boundLegal s = true →
    ∃ t, exec (.decode ox oy) s = .next t ∧
      (t.sess = .done ∨
        t.sess = .faulted ∧
          (t.err.kind = 1 ∨ t.err.kind = 2 ∨ t.err.kind = 4 ∧ t.err.cause = causeCode .destRegion))) ∧
  (∀ s b ox oy h rest, s.sess = .ready → s.binding = some b → headerLegal h b.dest.depth →
    streamRest s = headerBits h ++ rest →
    b.dest.w.toNat < ox.toNat + h.fields.imageWidth.toNat ∨ b.dest.h.toNat < oy.toNat + h.fields.imageHeight.toNat →
    ∃ u, exec (.decode ox oy) s = .next (trapped .destRegion (ox.toNat * 65536 + oy.toNat) u) ∧
      u = { s with
        sess := .running
        pos := s.pos + (320 + 16 * h.fields.numSubbands.toNat)
        seq := ⟨.hdr, 0, 0, 0, 0⟩
        hdr := h.fields
        quant := u.quant
        offx := ox
        offy := oy } ∧
      ∀ i < 10, quantAt u i = if i < h.fields.numSubbands.toNat then h.quant.getD i 0 else quantAt s i) ∧
  ∀ s t ox oy, s.sess = .ready → exec (.decode ox oy) s = .next t → t.sess = .faulted →
    t.err.cause = causeCode .destRegion →
    ∃ b h rest, s.binding = some b ∧ headerLegal h b.dest.depth ∧ streamRest s = headerBits h ++ rest ∧
      (b.dest.w.toNat < ox.toNat + h.fields.imageWidth.toNat ∨
        b.dest.h.toNat < oy.toNat + h.fields.imageHeight.toNat)

/-! ## The bit reader and the stream words -/

/-- BR.READ and BR.PEEK (`40_bitreader_rlv.md` R120 to R122): the checks in their order; the value's bit `n-1-k` is
the bit at POS + k and the bits above are 0; only BR.READ moves POS. The bit at position `q` is bit `7 - q mod 8` of
byte `q div 8` of IN (`20_memory.md` R61), which is a range of the host's memory (the model's choice, log 5). -/
def Obligations.BitReadResult : Prop :=
  (∀ s b q, s.binding = some b →
    streamBit s q = (cellRead s.mem (b.input.base + q / 8)).getLsbD (7 - q % 8)) ∧
  (∀ p, decodeCommand 0x10#8 p = .ok (.brRead p.n)) ∧ (∀ p, decodeCommand 0x11#8 p = .ok (.brPeek p.n)) ∧
  ∀ s n, ∃ v : U32,
    (∀ k, v.getLsbD k = if k < n ∧ n ≤ 32 then streamBit s (s.pos + (n - 1 - k)) else false) ∧
    exec (.brRead n) s = .next
      (if 32 < n then trapped .badBitCount n s
      else if streamEnd s < s.pos + n then trapped .readerOverrun s.pos s
      else { s with pos := s.pos + n, result := .bits v }) ∧
    exec (.brPeek n) s = .next
      (if 32 < n then trapped .badBitCount n s
      else if streamEnd s < s.pos + n then trapped .readerOverrun s.pos s
      else { s with result := .bits v })

/-- BR.ATEND (R123). -/
def Obligations.AtEndResult : Prop :=
  (∀ p, decodeCommand 0x12#8 p = .ok .brAtEnd) ∧
  ∀ s, exec .brAtEnd s = .next
    { s with result := .atEnd (if s.pos = streamEnd s then true else false) (streamEnd s - s.pos) }

/-- RLV.DECODE and a token word (R126, R127; `30_encoding.md` R99, R100): a token at POS gives its pair and POS grows
by exactly its length; nothing else changes. That a token word is an instruction is the model's choice (log 4). -/
def Obligations.TokenRead : Prop :=
  (∀ s run value rest, run ≤ 8190 → value.natAbs ≤ 8190 → streamRest s = tokenBits run value ++ rest →
    exec .rlvDecode s = .next
      { s with pos := s.pos + (tokenBits run value).length, result := .token run value }) ∧
  ∀ s run value, run ≤ 8190 → value.natAbs ≤ 8190 → s.pos + (tokenBits run value).length ≤ streamEnd s →
    exec (.tok run value) s = .next
      { s with pos := s.pos + (tokenBits run value).length, result := .token run value }

/-- Where RLV.DECODE traps (R121, R124 to R126): thirteen zeros in either code word raise MalformedCode just after
them; a token of which only the first `k` bits stand before the end of the buffer raises ReaderOverrun, POS and info
at the start of the read that does not fit: the next bit inside a zero prefix, at a marker and at the sign, the first
suffix bit inside a suffix. -/
def Obligations.TokenTraps : Prop :=
  (∀ s rest, streamRest s = List.replicate 13 false ++ rest →
    exec .rlvDecode s = .next (trapped .malformedCode (s.pos + 13) { s with pos := s.pos + 13 })) ∧
  (∀ s run rest, run ≤ 8190 → streamRest s = valueBits run ++ List.replicate 13 false ++ rest →
    exec .rlvDecode s = .next
      (trapped .malformedCode (s.pos + (valueBits run).length + 13)
        { s with pos := s.pos + (valueBits run).length + 13 })) ∧
  ∀ s run value k, run ≤ 8190 → value.natAbs ≤ 8190 → k < (tokenBits run value).length →
    streamRest s = (tokenBits run value).take k →
    exec .rlvDecode s = .next
      (trapped .readerOverrun (s.pos + tokenCut run value k) { s with pos := s.pos + tokenCut run value k })

/-- The code words as instructions, UE.z0 to UE.z12 and UE.malformed (R97, R125): a code word that stands at POS gives
its value and consumes `2 z + 1` bits; thirteen zeros raise MalformedCode just after them. That they are instructions
with a result port is the model's choice (log 4, log 13). -/
def Obligations.CodeWordResult : Prop :=
  (∀ s i v, v ≤ 8190 → encode i = .stream .ue (valueBits v) → s.pos + (valueBits v).length ≤ streamEnd s →
    exec i s = .next { s with pos := s.pos + (valueBits v).length, result := .code v }) ∧
  ∀ s, s.pos + 13 ≤ streamEnd s →
    exec .ueMalformed s = .next (trapped .malformedCode (s.pos + 13) { s with pos := s.pos + 13 })

/-- A stream word acts as its decoder: when the bits at POS are a word of a format, running the word as an
instruction is running HDR.PARSE, the code word decoder or RLV.DECODE on those bits (R125, R126, R195), errors
included. That stream words are instructions is the model's choice (log 4). -/
def Obligations.StreamWordsAct : Prop :=
  ∀ (f : Format) (s : State) (i : Instr) (rest : List Bool),
    decodeStream f (streamRest s) = .ok (i, rest) → exec i s = runDecoder f s

/-! ## The expansion table -/

/-- LOG.BUILD (`41_logtable.md` R141, R142): entry `i` is min(32767, i + 768 i^3 / 255^3); the obligations R142
names, and the facts of the default law (log 14). -/
def Obligations.LogBuildResult : Prop :=
  (∀ s, ∃ t, exec .logBuild s = .next t ∧
    t = { s with logt := t.logt, logtValid := true, result := .none } ∧ t.logt.length = 4096 ∧
    ∀ i < 4096, t.logt[i]? = some (BitVec.ofNat 16 (min 32767 (i + 768 * i ^ 3 / 16581375)))) ∧
  (∀ i, expandLog i ≤ 32767) ∧ (∀ i ≤ 27, expandLog i = i) ∧ (∀ i, 883 ≤ i → expandLog i = 32767) ∧
  ∀ i j, i ≤ j → expandLog i ≤ expandLog j

/-- LOG.DECODE (R143, R144): the table is built first; an index over 4095 raises LogIndex with abs(v), which is over
the integers; else the result is sgn(v) times the law at abs(v), the spec's default (log 14). -/
def Obligations.LogDecodeResult : Prop :=
  ∀ s v, tableLegal s →
    exec (.logDecode v) s = .next
      (if 4095 < v.toInt.natAbs then
        trapped .logIndex v.toInt.natAbs { s with logt := logTable, logtValid := true }
      else
        { s with
          logt := logTable
          logtValid := true
          result := .expanded (v.toInt.sign * (min 32767 (v.toInt.natAbs + 768 * v.toInt.natAbs ^ 3 / 16581375) : Nat)) })

/-! ## Planes -/

/-- PL.CREATE (`42_plane.md` R151): a fresh zero-filled buffer, or BadDimensions; every other buffer is unchanged. -/
def Obligations.PlaneCreateResult : Prop :=
  (∀ p, decodeCommand 0x40#8 p = .ok (.plCreate p.width p.height)) ∧
  (∀ s w h, w = 0 ∨ h = 0 →
    exec (.plCreate w h) s = .next (trapped .badDimensions (w.toNat * 65536 + h.toNat) s)) ∧
  ∀ s w h, w ≠ 0 → h ≠ 0 → ∃ t, exec (.plCreate w h) s = .next t ∧
    t = { s with
      bufs := t.bufs
      nextBuf := s.nextBuf + 1
      result := .plane ⟨some s.nextBuf, 0, w, h, w, true, s.epoch⟩ } ∧
    (∀ e, coefAt t s.nextBuf e = if e < w.toNat * h.toNat then some 0 else none) ∧
    ∀ id e, id ≠ s.nextBuf → coefAt t id e = coefAt s id e

/-- PL.CLEAR (R155): every element of the plane becomes 0, every other coefficient keeps its value, the elements of a
parent between the rows of a view included; a dangling descriptor raises DanglingView. -/
def Obligations.PlaneClearResult : Prop :=
  (∀ p, decodeCommand 0x41#8 p = .ok (.plClear p.plane)) ∧
  (∀ s p, dangling s p → exec (.plClear p) s = .next (trapped .danglingView 0 s)) ∧
  ∀ s p, storageWf s → planeLegal s p → ∃ t, exec (.plClear p) s = .next t ∧
    t = { s with bufs := t.bufs, result := .none } ∧
    (∀ id e, inPlane p id e → coefAt t id e = some 0) ∧
    ∀ id e, ¬inPlane p id e → coefAt t id e = coefAt s id e

/-- PL.READ (R153, R157): the element at base + y * stride + x; DanglingView, then PlaneBounds by the width, not the
stride. -/
def Obligations.PlaneReadResult : Prop :=
  (∀ p, decodeCommand 0x42#8 p = .ok (.plRead p.plane p.x p.y)) ∧
  (∀ s p x y, dangling s p → exec (.plRead p x y) s = .next (trapped .danglingView 0 s)) ∧
  (∀ s p x y, ¬dangling s p → p.width ≤ x ∨ p.height ≤ y →
    exec (.plRead p x y) s = .next (trapped .planeBounds (x.toNat * 65536 + y.toNat) s)) ∧
  ∀ s p id x y, planeLegal s p → p.buf = some id → x < p.width → y < p.height →
    ∃ v, coefAt s id (p.base + y.toNat * p.stride.toNat + x.toNat) = some v ∧
      exec (.plRead p x y) s = .next { s with result := .coef v }

/-- PL.WRITE (R154, R157): exactly the element at base + y * stride + x changes; the same checks as PL.READ. -/
def Obligations.PlaneWriteResult : Prop :=
  (∀ p, decodeCommand 0x43#8 p = .ok (.plWrite p.plane p.x p.y p.value)) ∧
  (∀ s p x y v, dangling s p → exec (.plWrite p x y v) s = .next (trapped .danglingView 0 s)) ∧
  (∀ s p x y v, ¬dangling s p → p.width ≤ x ∨ p.height ≤ y →
    exec (.plWrite p x y v) s = .next (trapped .planeBounds (x.toNat * 65536 + y.toNat) s)) ∧
  ∀ s p id x y v, storageWf s → planeLegal s p → p.buf = some id → x < p.width → y < p.height →
    ∃ t, exec (.plWrite p x y v) s = .next t ∧ t = { s with bufs := t.bufs, result := .none } ∧
      coefAt t id (p.base + y.toNat * p.stride.toNat + x.toNat) = some v ∧
      ∀ id' e, ¬(id' = id ∧ e = p.base + y.toNat * p.stride.toNat + x.toNat) → coefAt t id' e = coefAt s id' e

/-- PL.VIEW (R156; `20_memory.md` R67): the checks in their order; the view shares the parent's storage, element
(x, y) of it being element (x0 + x, y0 + y) of the parent, and a view of a legal plane is legal. -/
def Obligations.PlaneViewResult : Prop :=
  (∀ p, decodeCommand 0x44#8 p = .ok (.plView p.plane p.x0 p.y0 p.w p.h)) ∧
  (∀ s p x0 y0 w h,
    exec (.plView p x0 y0 w h) s = .next
      (if dangling s p then trapped .danglingView 0 s
      else if w = 0 ∨ h = 0 then trapped .badDimensions (w.toNat * 65536 + h.toNat) s
      else if p.width.toNat < x0.toNat + w.toNat ∨ p.height.toNat < y0.toNat + h.toNat then
        trapped .planeBounds (x0.toNat * 65536 + y0.toNat) s
      else
        { s with
          result := .plane ⟨p.buf, p.base + y0.toNat * p.stride.toNat + x0.toNat, w, h, p.stride, false, p.epoch⟩ })) ∧
  ∀ s p x0 y0 w h, planeLegal s p → w ≠ 0 → h ≠ 0 → x0.toNat + w.toNat ≤ p.width.toNat →
    y0.toNat + h.toNat ≤ p.height.toNat →
    planeLegal s (viewOf p x0 y0 w h) ∧
      ∀ x y, planeAt s (viewOf p x0 y0 w h) x y = planeAt s p (x0.toNat + x) (y0.toNat + y)

/-! ## Levels -/

/-- LV.INIT (`43_level.md` R166): the checks in their order; a level of `n` zero-filled bands under fresh ids, its
mask 0; every other level, buffer and register unchanged. -/
def Obligations.LevelInitResult : Prop :=
  (∀ p, decodeCommand 0x50#8 p = .ok (.lvInit p.lv p.width p.height p.numBands)) ∧
  (∀ s lv w h n, 3 < lv.c.toNat ∨ 2 < lv.l.toNat →
    exec (.lvInit lv w h n) s = .next (trapped .levelIndex (lv.c.toNat * 256 + lv.l.toNat) s)) ∧
  (∀ s lv w h n, lv.c.toNat ≤ 3 → lv.l.toNat ≤ 2 → (levelAt s lv.c.toNat lv.l.toNat).init = true →
    exec (.lvInit lv w h n) s = .next (trapped .levelState (lv.c.toNat * 256 + lv.l.toNat) s)) ∧
  (∀ s lv w h n, lv.c.toNat ≤ 3 → lv.l.toNat ≤ 2 → (levelAt s lv.c.toNat lv.l.toNat).init = false →
    (n < 1 ∨ 4 < n) → exec (.lvInit lv w h n) s = .next (trapped .badBandCount n s)) ∧
  (∀ s lv w h n, lv.c.toNat ≤ 3 → lv.l.toNat ≤ 2 → (levelAt s lv.c.toNat lv.l.toNat).init = false →
    1 ≤ n → n ≤ 4 → (w = 0 ∨ h = 0) →
    exec (.lvInit lv w h n) s = .next (trapped .badDimensions (w.toNat * 65536 + h.toNat) s)) ∧
  ∀ s lv w h n, lv.c.toNat ≤ 3 → lv.l.toNat ≤ 2 → (levelAt s lv.c.toNat lv.l.toNat).init = false →
    1 ≤ n → n ≤ 4 → w ≠ 0 → h ≠ 0 →
    ∃ t, exec (.lvInit lv w h n) s = .next t ∧
      t = { s with ct := t.ct, bufs := t.bufs, nextBuf := s.nextBuf + n, result := .none } ∧
      (levelAt t lv.c.toNat lv.l.toNat).init = true ∧ (levelAt t lv.c.toNat lv.l.toNat).valid = 0 ∧
      (levelAt t lv.c.toNat lv.l.toNat).width = w ∧ (levelAt t lv.c.toNat lv.l.toNat).height = h ∧
      (levelAt t lv.c.toNat lv.l.toNat).stride = w ∧ (levelAt t lv.c.toNat lv.l.toNat).numBands.toNat = n ∧
      (∀ b < 4, bandAt (levelAt t lv.c.toNat lv.l.toNat) b =
        if b < n then ⟨⟨some (s.nextBuf + b), 0, w, h, w, true, s.epoch⟩, 0⟩
        else bandAt (levelAt s lv.c.toNat lv.l.toNat) b) ∧
      (∀ b < n, ∀ e, coefAt t (s.nextBuf + b) e = if e < w.toNat * h.toNat then some 0 else none) ∧
      (∀ id e, (id < s.nextBuf ∨ s.nextBuf + n ≤ id) → coefAt t id e = coefAt s id e) ∧
      (∀ c l, (c ≠ lv.c.toNat ∨ l ≠ lv.l.toNat) → levelAt t c l = levelAt s c l) ∧
      ∀ c l, prescaleAt t c l = prescaleAt s c l

/-- LV.CLEAR (R167): the level takes its reset values and the buffers of its declared bands go; LevelIndex is its only
error. -/
def Obligations.LevelClearResult : Prop :=
  (∀ p, decodeCommand 0x51#8 p = .ok (.lvClear p.lv)) ∧
  (∀ s lv, 3 < lv.c.toNat ∨ 2 < lv.l.toNat →
    exec (.lvClear lv) s = .next (trapped .levelIndex (lv.c.toNat * 256 + lv.l.toNat) s)) ∧
  ∀ s lv, lv.c.toNat ≤ 3 → lv.l.toNat ≤ 2 →
    ∃ t, exec (.lvClear lv) s = .next t ∧ t = { s with ct := t.ct, bufs := t.bufs, result := .none } ∧
      levelAt t lv.c.toNat lv.l.toNat = Level.reset ∧
      (∀ c l, (c ≠ lv.c.toNat ∨ l ≠ lv.l.toNat) → levelAt t c l = levelAt s c l) ∧
      (∀ c l, prescaleAt t c l = prescaleAt s c l) ∧
      ∀ id, bufFind t.bufs id =
        if (levelAt s lv.c.toNat lv.l.toNat).init = true ∧
            ∃ b < (levelAt s lv.c.toNat lv.l.toNat).numBands.toNat,
              (bandAt (levelAt s lv.c.toNat lv.l.toNat) b).plane.buf = some id then none
        else bufFind s.bufs id

/-- LV.SETVALID (R168): one bit of the mask; LevelIndex, LevelState, BandIndex in that order
(`60_exceptions.md` R229). -/
def Obligations.SetValidResult : Prop :=
  (∀ p, decodeCommand 0x52#8 p = .ok (.lvSetValid p.lv p.bandIndex)) ∧
  (∀ s lv b, 3 < lv.c.toNat ∨ 2 < lv.l.toNat →
    exec (.lvSetValid lv b) s = .next (trapped .levelIndex (lv.c.toNat * 256 + lv.l.toNat) s)) ∧
  (∀ s lv b, lv.c.toNat ≤ 3 → lv.l.toNat ≤ 2 → (levelAt s lv.c.toNat lv.l.toNat).init = false →
    exec (.lvSetValid lv b) s = .next (trapped .levelState (lv.c.toNat * 256 + lv.l.toNat) s)) ∧
  (∀ s lv b, lv.c.toNat ≤ 3 → lv.l.toNat ≤ 2 → (levelAt s lv.c.toNat lv.l.toNat).init = true →
    (levelAt s lv.c.toNat lv.l.toNat).numBands.toNat ≤ b.toNat →
    exec (.lvSetValid lv b) s = .next (trapped .bandIndex b.toNat s)) ∧
  ∀ s lv b, bandReady s lv b.toNat →
    ∃ t, exec (.lvSetValid lv b) s = .next t ∧ t = { s with ct := t.ct, result := .none } ∧
      levelAt t lv.c.toNat lv.l.toNat =
        { levelAt s lv.c.toNat lv.l.toNat with valid := (levelAt t lv.c.toNat lv.l.toNat).valid } ∧
      (∀ k < 4, validBit (levelAt t lv.c.toNat lv.l.toNat) k =
        (validBit (levelAt s lv.c.toNat lv.l.toNat) k || k == b.toNat)) ∧
      (∀ c l, (c ≠ lv.c.toNat ∨ l ≠ lv.l.toNat) → levelAt t c l = levelAt s c l) ∧
      ∀ c l, prescaleAt t c l = prescaleAt s c l

/-- LV.ISVALID and LV.ALLVALID (R169, R170): they change nothing but the result port; an uninitialized level answers
ALLVALID with 0. -/
def Obligations.MaskReadResult : Prop :=
  (∀ p, decodeCommand 0x53#8 p = .ok (.lvIsValid p.lv p.bandIndex)) ∧
  (∀ p, decodeCommand 0x54#8 p = .ok (.lvAllValid p.lv)) ∧
  (∀ s lv b,
    exec (.lvIsValid lv b) s = .next
      (if 3 < lv.c.toNat ∨ 2 < lv.l.toNat then trapped .levelIndex (lv.c.toNat * 256 + lv.l.toNat) s
      else if (levelAt s lv.c.toNat lv.l.toNat).init = false then
        trapped .levelState (lv.c.toNat * 256 + lv.l.toNat) s
      else if (levelAt s lv.c.toNat lv.l.toNat).numBands.toNat ≤ b.toNat then trapped .bandIndex b.toNat s
      else { s with result := .flag ((levelAt s lv.c.toNat lv.l.toNat).valid.getLsbD b.toNat) })) ∧
  (∀ s lv, 3 < lv.c.toNat ∨ 2 < lv.l.toNat →
    exec (.lvAllValid lv) s = .next (trapped .levelIndex (lv.c.toNat * 256 + lv.l.toNat) s)) ∧
  ∀ s lv, lv.c.toNat ≤ 3 → lv.l.toNat ≤ 2 → ∃ all,
    exec (.lvAllValid lv) s = .next { s with result := .flag all } ∧
    (levelLegal s (levelAt s lv.c.toNat lv.l.toNat) →
      (all = true ↔ (levelAt s lv.c.toNat lv.l.toNat).init = true ∧
        ∀ b < (levelAt s lv.c.toNat lv.l.toNat).numBands.toNat, validBit (levelAt s lv.c.toNat lv.l.toNat) b = true))

/-- LV.BANDPLANE (R172): a non-owning view of the whole band; the checks in their order. -/
def Obligations.BandPlaneResult : Prop :=
  (∀ p, decodeCommand 0x57#8 p = .ok (.lvBandPlane p.lv p.bandIndex)) ∧
  (∀ s lv b, 3 < lv.c.toNat ∨ 2 < lv.l.toNat →
    exec (.lvBandPlane lv b) s = .next (trapped .levelIndex (lv.c.toNat * 256 + lv.l.toNat) s)) ∧
  (∀ s lv b, lv.c.toNat ≤ 3 → lv.l.toNat ≤ 2 → (levelAt s lv.c.toNat lv.l.toNat).init = false →
    exec (.lvBandPlane lv b) s = .next (trapped .levelState (lv.c.toNat * 256 + lv.l.toNat) s)) ∧
  (∀ s lv b, lv.c.toNat ≤ 3 → lv.l.toNat ≤ 2 → (levelAt s lv.c.toNat lv.l.toNat).init = true →
    (levelAt s lv.c.toNat lv.l.toNat).numBands.toNat ≤ b.toNat →
    exec (.lvBandPlane lv b) s = .next (trapped .bandIndex b.toNat s)) ∧
  ∀ s lv b, bandReady s lv b.toNat → levelLegal s (levelAt s lv.c.toNat lv.l.toNat) →
    exec (.lvBandPlane lv b) s = .next
      { s with
        result := .plane { (bandAt (levelAt s lv.c.toNat lv.l.toNat) b.toNat).plane with owned := false } }

/-- LV.DEQUANT (R171, `70_reset_and_hazards.md` R258): on any two legal planes of one size the storage becomes what
the row-major loop gives, element by element; where the planes coincide or lie in different buffers, every element of
`out` is the old element of `in` times `quant`, narrowed (quant 0: unchanged). DanglingView and PlaneMismatch
otherwise. Narrowing keeps the low 16 bits, the spec's default (log 14). -/
def Obligations.DequantResult : Prop :=
  (∀ s out inp q, dangling s out ∨ dangling s inp →
    exec (.lvDequant out inp q) s = .next (trapped .danglingView 0 s)) ∧
  (∀ s out inp q, ¬dangling s out → ¬dangling s inp → out.width ≠ inp.width ∨ out.height ≠ inp.height →
    exec (.lvDequant out inp q) s = .next (trapped .planeMismatch 0 s)) ∧
  ∀ s out inp q ido idi, storageWf s → planeLegal s out → planeLegal s inp → out.width = inp.width →
    out.height = inp.height → out.buf = some ido → inp.buf = some idi →
    ∃ t, exec (.lvDequant out inp q) s = .next t ∧ t = { s with bufs := t.bufs, result := .none } ∧
      (∀ id e, (coefAt t id e).isSome = (coefAt s id e).isSome ∧
        coefMap t id e =
          (rowMajor inp.width.toNat inp.height.toNat).foldl
            (fun m xy => dequantTurn q m idi (planeAddr inp xy.1 xy.2) ido (planeAddr out xy.1 xy.2))
            (coefMap s) id e) ∧
      (∀ id e, ¬inPlane out id e → coefAt t id e = coefAt s id e) ∧
      ((ido ≠ idi ∨ ∀ x < inp.width.toNat, ∀ y < inp.height.toNat, planeAddr out x y = planeAddr inp x y) →
        ∀ x < inp.width.toNat, ∀ y < inp.height.toNat,
          planeAt t out x y = (planeAt s inp x y).map (dequantized q))

/-- LV.RECON into a plane (R174 to R180): all of S is computed from the bands as they were, then every element of the
sink becomes the posted value narrowed to its low 16 bits, whatever storage the sink shares; nothing else changes. The
kernel and the narrowing are the spec's defaults (log 14). -/
def Obligations.ReconPlaneResult : Prop :=
  ∀ s lv p prescale clamp, storageWf s → lv.c.toNat ≤ 3 → lv.l.toNat ≤ 2 →
    levelLegal s (levelAt s lv.c.toNat lv.l.toNat) → allValid (levelAt s lv.c.toNat lv.l.toNat) = true →
    planeLegal s p → p.width.toNat = 2 * (levelAt s lv.c.toNat lv.l.toNat).width.toNat →
    p.height.toNat = 2 * (levelAt s lv.c.toNat lv.l.toNat).height.toNat →
    ∃ t, exec (.lvRecon lv (.plane p) prescale clamp) s = .next t ∧
      t = { s with bufs := t.bufs, result := .none } ∧
      (∀ X Y, X < p.width.toNat → Y < p.height.toNat →
        planeAt t p X Y =
          some (BitVec.ofInt 16 (reconValue s (levelAt s lv.c.toNat lv.l.toNat) prescale clamp X Y))) ∧
      ∀ id e, ¬inPlane p id e → coefAt t id e = coefAt s id e

/-- LV.RECON into the image (R174, R180; `44_channel_orchestrator.md` R203; `20_memory.md` R68), any channel, region
and binding: with clamping and a level of the channel's size, the writes of R203 in row-major order, but for those
outside the region or the image, which write nothing (the model's reading, log 8). With a pattern that is not empty no
two writes meet, so each writable sample is the posted value and every other sample keeps its own. With the region
inside the image and the channel inside the pattern, sample (OFFX + pw X + c mod pw, OFFY + ph Y + c div pw) becomes
the posted value for every X and Y. An empty pattern and more than 16 bits per component involve free values (log 9,
log 10). The kernel is the spec's default (log 14). -/
def Obligations.ReconImageResult : Prop :=
  ∀ s lv (c : BitVec 8) prescale, storageWf s → lv.c.toNat ≤ 3 → lv.l.toNat ≤ 2 →
    levelLegal s (levelAt s lv.c.toNat lv.l.toNat) → allValid (levelAt s lv.c.toNat lv.l.toNat) = true →
    2 * (levelAt s lv.c.toNat lv.l.toNat).width.toNat = channelWidth s →
    2 * (levelAt s lv.c.toNat lv.l.toNat).height.toNat = channelHeight s →
    ∃ t, exec (.lvRecon lv (.image c) prescale true) s = .next t ∧
      t = { s with dest := t.dest, result := .none } ∧
      (∀ key, cellRead t.dest key =
        (rowMajor (channelWidth s) (channelHeight s)).foldl
          (fun v XY =>
            if destWritable s (destX s c.toNat XY.1) (destY s c.toNat XY.2) ∧
                key = destKey (boundDest s).image (destX s c.toNat XY.1) (destY s c.toNat XY.2) then
              sampleOf (reconValue s (levelAt s lv.c.toNat lv.l.toNat) prescale true XY.1 XY.2)
            else v)
          (cellRead s.dest key)) ∧
      (1 ≤ s.hdr.patternWidth.toNat → 1 ≤ s.hdr.patternHeight.toNat →
        (∀ X Y, X < planeWidth s.hdr → Y < planeHeight s.hdr →
          destWritable s (destX s c.toNat X) (destY s c.toNat Y) →
          destSample t (boundDest s).image (destX s c.toNat X) (destY s c.toNat Y) =
            sampleOf (reconValue s (levelAt s lv.c.toNat lv.l.toNat) prescale true X Y)) ∧
        ∀ key, (∀ X Y, X < planeWidth s.hdr → Y < planeHeight s.hdr →
            destWritable s (destX s c.toNat X) (destY s c.toNat Y) →
            key ≠ destKey (boundDest s).image (destX s c.toNat X) (destY s c.toNat Y)) →
          cellRead t.dest key = cellRead s.dest key) ∧
      ∀ b, s.binding = some b → 1 ≤ s.hdr.patternWidth.toNat → 1 ≤ s.hdr.patternHeight.toNat →
        c.toNat < s.hdr.patternWidth.toNat * s.hdr.patternHeight.toNat → s.hdr.bitsPerComponent.toNat ≤ 16 →
        s.offx.toNat + s.hdr.imageWidth.toNat ≤ b.dest.w.toNat →
        s.offy.toNat + s.hdr.imageHeight.toNat ≤ b.dest.h.toNat →
        ∀ X Y, X < planeWidth s.hdr → Y < planeHeight s.hdr →
          destSample t b.dest.image
              (s.offx.toNat + s.hdr.patternWidth.toNat * X + c.toNat % s.hdr.patternWidth.toNat)
              (s.offy.toNat + s.hdr.patternHeight.toNat * Y + c.toNat / s.hdr.patternWidth.toNat) =
            BitVec.ofInt 16 (reconValue s (levelAt s lv.c.toNat lv.l.toNat) prescale true X Y)

/-- The checks of LV.RECON in their order (R174, R180; `60_exceptions.md` R229): LevelIndex; BandsNotValid with VALID
as info, whatever the sink; then the sink's checks. A failing LV.RECON writes nothing (R225 (e)): in every state it
either raises with nothing else changed, or had passed every check, those of each element of a plane sink (log 7)
included, and takes no error. -/
def Obligations.ReconChecks : Prop :=
  (∀ s lv dest p clamp, 3 < lv.c.toNat ∨ 2 < lv.l.toNat →
    exec (.lvRecon lv dest p clamp) s = .next (trapped .levelIndex (lv.c.toNat * 256 + lv.l.toNat) s)) ∧
  (∀ s lv dest p clamp, lv.c.toNat ≤ 3 → lv.l.toNat ≤ 2 → allValid (levelAt s lv.c.toNat lv.l.toNat) = false →
    exec (.lvRecon lv dest p clamp) s =
      .next (trapped .bandsNotValid (levelAt s lv.c.toNat lv.l.toNat).valid.toNat s)) ∧
  (∀ s lv q p clamp, lv.c.toNat ≤ 3 → lv.l.toNat ≤ 2 → allValid (levelAt s lv.c.toNat lv.l.toNat) = true →
    dangling s q → exec (.lvRecon lv (.plane q) p clamp) s = .next (trapped .danglingView 0 s)) ∧
  (∀ s lv q p clamp, lv.c.toNat ≤ 3 → lv.l.toNat ≤ 2 → allValid (levelAt s lv.c.toNat lv.l.toNat) = true →
    ¬dangling s q →
    q.width.toNat ≠ 2 * (levelAt s lv.c.toNat lv.l.toNat).width.toNat ∨
      q.height.toNat ≠ 2 * (levelAt s lv.c.toNat lv.l.toNat).height.toNat →
    exec (.lvRecon lv (.plane q) p clamp) s = .next (trapped .planeMismatch 0 s)) ∧
  (∀ s lv c p, lv.c.toNat ≤ 3 → lv.l.toNat ≤ 2 → allValid (levelAt s lv.c.toNat lv.l.toNat) = true →
    exec (.lvRecon lv (.image c) p false) s = .next (trapped .sinkMode 0 s)) ∧
  (∀ s lv c p, lv.c.toNat ≤ 3 → lv.l.toNat ≤ 2 → allValid (levelAt s lv.c.toNat lv.l.toNat) = true →
    2 * (levelAt s lv.c.toNat lv.l.toNat).width.toNat ≠ channelWidth s ∨
      2 * (levelAt s lv.c.toNat lv.l.toNat).height.toNat ≠ channelHeight s →
    exec (.lvRecon lv (.image c) p true) s = .next (trapped .planeMismatch 1 s)) ∧
  ∀ s t lv dest p clamp, exec (.lvRecon lv dest p clamp) s = .next t →
    (∃ c info, t = trapped c info s) ∨
      t = { s with bufs := t.bufs, dest := t.dest, result := .none } ∧ lv.c.toNat ≤ 3 ∧ lv.l.toNat ≤ 2 ∧
        allValid (levelAt s lv.c.toNat lv.l.toNat) = true ∧
        match dest with
        | .plane q => ¬dangling s q ∧
            q.width.toNat = 2 * (levelAt s lv.c.toNat lv.l.toNat).width.toNat ∧
            q.height.toNat = 2 * (levelAt s lv.c.toNat lv.l.toNat).height.toNat ∧
            ∀ x y, x < q.width.toNat → y < q.height.toNat → planeAddr q x y < planeLen s q
        | .image _ => clamp = true ∧
            2 * (levelAt s lv.c.toNat lv.l.toNat).width.toNat = channelWidth s ∧
            2 * (levelAt s lv.c.toNat lv.l.toNat).height.toNat = channelHeight s

/-- Elements past the end of a buffer (`42_plane.md` R157, `20_memory.md` R70; that R157 covers them is the model's
reading, log 7): a descriptor that passes the checks of R157 but has an element outside its buffer, which R150
excludes, raises PlaneBounds. PL.READ and PL.WRITE raise it at that element. PL.CLEAR and LV.DEQUANT raise it at the
first such element in row-major order, with exactly the turns before it done (`60_exceptions.md` R225, `43_level.md`
R171; narrowing: log 14). LV.RECON checks every element of its sink before it writes, so nothing is written (R225 (e),
R229). -/
def Obligations.OutsideAccess : Prop :=
  (∀ s p x y, ¬dangling s p → x < p.width → y < p.height → planeLen s p ≤ planeAddr p x.toNat y.toNat →
    exec (.plRead p x y) s = .next (trapped .planeBounds (x.toNat * 65536 + y.toNat) s) ∧
    ∀ v, exec (.plWrite p x y v) s = .next (trapped .planeBounds (x.toNat * 65536 + y.toNat) s)) ∧
  (∀ s p x y, storageWf s → ¬dangling s p → firstOutside p.width.toNat p.height.toNat x y
      (fun x y => planeLen s p ≤ planeAddr p x y) →
    ∃ u, exec (.plClear p) s = .next (trapped .planeBounds (x * 65536 + y) u) ∧ u = { s with bufs := u.bufs } ∧
      ∀ id e, coefAt u id e =
        if p.buf = some id ∧ ∃ xy ∈ rowMajorBefore p.width.toNat x y, e = planeAddr p xy.1 xy.2 then some 0
        else coefAt s id e) ∧
  (∀ s out inp q x y ido idi, storageWf s → ¬dangling s out → ¬dangling s inp → out.width = inp.width →
    out.height = inp.height → out.buf = some ido → inp.buf = some idi →
    firstOutside inp.width.toNat inp.height.toNat x y
      (fun x y => planeLen s inp ≤ planeAddr inp x y ∨ planeLen s out ≤ planeAddr out x y) →
    ∃ u, exec (.lvDequant out inp q) s = .next (trapped .planeBounds (x * 65536 + y) u) ∧
      u = { s with bufs := u.bufs } ∧
      (∀ id e, (coefAt u id e).isSome = (coefAt s id e).isSome ∧
        coefMap u id e =
          (rowMajorBefore inp.width.toNat x y).foldl
            (fun m xy => dequantTurn q m idi (planeAddr inp xy.1 xy.2) ido (planeAddr out xy.1 xy.2))
            (coefMap s) id e) ∧
      ∀ id e, ¬inPlane out id e → coefAt u id e = coefAt s id e) ∧
  ∀ s lv p prescale clamp x y, lv.c.toNat ≤ 3 → lv.l.toNat ≤ 2 →
    allValid (levelAt s lv.c.toNat lv.l.toNat) = true → ¬dangling s p →
    p.width.toNat = 2 * (levelAt s lv.c.toNat lv.l.toNat).width.toNat →
    p.height.toNat = 2 * (levelAt s lv.c.toNat lv.l.toNat).height.toNat →
    firstOutside p.width.toNat p.height.toNat x y (fun x y => planeLen s p ≤ planeAddr p x y) →
    exec (.lvRecon lv (.plane p) prescale clamp) s = .next (trapped .planeBounds (x * 65536 + y) s)

/-- The kernel and the synthesis (R177, R178, R182): the line synthesis is K0 point by point and twice as long as its
input; zero detail with constant lowpass gives the constant, along a line and over a plane. K0 is the spec's default
(log 14). -/
def Obligations.KernelPoints : Prop :=
  (∀ low high : List Int, (synth1D low high).length = 2 * low.length ∧
    ∀ j < 2 * low.length,
      (synth1D low high)[j]? = some (kernelAt (fun i => low.getD i 0) (fun i => high.getD i 0) low.length j)) ∧
  (∀ (n : Nat) (k : Int), synth1D (List.replicate n k) (List.replicate n 0) = List.replicate (2 * n) k) ∧
  ∀ (B : Nat → Nat → Nat → Int) (k : Int) (w h X Y : Nat), (∀ x y, B 0 x y = k) → (∀ x y, B 1 x y = 0) →
    (∀ x y, B 2 x y = 0) → (∀ x y, B 3 x y = 0) → synthAt B w h X Y = k

/-- Lossless round trip (R182 (d), `95_test_vectors.md` section 4): bands that hold the forward transform of an image
of 16-bit values reconstruct that image exactly. The kernel and the narrowing are the spec's defaults (log 14). -/
def Obligations.LosslessRoundTrip : Prop :=
  ∀ s lv p (img : Nat → Nat → Int), storageWf s → lv.c.toNat ≤ 3 → lv.l.toNat ≤ 2 →
    levelLegal s (levelAt s lv.c.toNat lv.l.toNat) → allValid (levelAt s lv.c.toNat lv.l.toNat) = true →
    planeLegal s p → p.width.toNat = 2 * (levelAt s lv.c.toNat lv.l.toNat).width.toNat →
    p.height.toNat = 2 * (levelAt s lv.c.toNat lv.l.toNat).height.toNat →
    (∀ k < 4, ∀ x < (levelAt s lv.c.toNat lv.l.toNat).width.toNat,
      ∀ y < (levelAt s lv.c.toNat lv.l.toNat).height.toNat,
        bandValue s (levelAt s lv.c.toNat lv.l.toNat) k x y =
          fwdBand img (levelAt s lv.c.toNat lv.l.toNat).width.toNat
            (levelAt s lv.c.toNat lv.l.toNat).height.toNat k x y) →
    ∃ t, exec (.lvRecon lv (.plane p) 0 false) s = .next t ∧
      ∀ X < p.width.toNat, ∀ Y < p.height.toNat, planeAt t p X Y = some (BitVec.ofInt 16 (img X Y))

/-! ## Channel transform, header and band fill -/

/-- CT.LEVEL and CT.PRESCALE (`44_channel_orchestrator.md` R191, R192). -/
def Obligations.LevelAccessResult : Prop :=
  (∀ p, decodeCommand 0x60#8 p = .ok (.ctLevel p.c p.l)) ∧
  (∀ p, decodeCommand 0x61#8 p = .ok (.ctPrescale p.c p.l)) ∧
  ∀ s c l,
    exec (.ctLevel c l) s = .next
      (if 3 < c.toNat ∨ 2 < l.toNat then trapped .levelIndex (c.toNat * 256 + l.toNat) s
      else { s with result := .level ⟨c, l⟩ }) ∧
    exec (.ctPrescale c l) s = .next
      (if 3 < c.toNat ∨ 2 < l.toNat then trapped .levelIndex (c.toNat * 256 + l.toNat) s
      else { s with result := .prescale (prescaleAt s c.toNat l.toNat) })

/-- HDR.PARSE and a header word (R195; `30_encoding.md` R93, R94): a legal header at POS fills HDR and the first
numSubbands entries of QUANT and POS grows by 320 + 16 numSubbands; nothing else changes. That a header word is an
instruction is the model's choice (log 4); which tags are legal is the spec's default (log 14). -/
def Obligations.HeaderParsed : Prop :=
  (∀ s b h rest, s.binding = some b → headerLegal h b.dest.depth → streamRest s = headerBits h ++ rest →
    ∃ t, exec .hdrParse s = .next t ∧
      t = { s with
        hdr := h.fields
        quant := t.quant
        pos := s.pos + (320 + 16 * h.fields.numSubbands.toNat)
        result := .none } ∧
      ∀ i < 10, quantAt t i = if i < h.fields.numSubbands.toNat then h.quant.getD i 0 else quantAt s i) ∧
  ∀ s b h, s.binding = some b → headerLegal h b.dest.depth →
    s.pos + (320 + 16 * h.fields.numSubbands.toNat) ≤ streamEnd s →
    ∃ t, exec (.hdr h) s = .next t ∧
      t = { s with
        hdr := h.fields
        quant := t.quant
        pos := s.pos + (320 + 16 * h.fields.numSubbands.toNat)
        result := .none } ∧
      ∀ i < 10, quantAt t i = if i < h.fields.numSubbands.toNat then h.quant.getD i 0 else quantAt s i

/-- Where HDR.PARSE traps (R195, R196; `40_bitreader_rlv.md` R124; `60_exceptions.md` R225, R229): the first check of
the table that fails is raised as soon as its field is read, though nothing may follow in the buffer: POS stands just
after the field, the fields read are stored, later fields and QUANT are not. A header of which only the first `k` bits
stand before the end of the buffer, and no check failed yet, raises ReaderOverrun with POS and info at the start of the
field that does not fit; the fields and entries before it are stored. Which tags are legal is the spec's default
(log 14). -/
def Obligations.HeaderTraps : Prop :=
  (∀ s b h k cause info rest, s.binding = some b → headerFault h.fields b.dest.depth = some (k, cause, info) →
    streamRest s = (headerBits h).take (16 * k) ++ rest →
    exec .hdrParse s = .next
      (trapped cause info { s with hdr := headerPrefix k h.fields s.hdr, pos := s.pos + 16 * k })) ∧
  ∀ s b h k, s.binding = some b → h.wf → k < (headerBits h).length →
    (∀ f cause info, headerFault h.fields b.dest.depth = some (f, cause, info) → k < 16 * f) →
    streamRest s = (headerBits h).take k →
    ∃ u, exec .hdrParse s = .next (trapped .readerOverrun (s.pos + headerCut k) u) ∧
      u = { s with hdr := headerStored k h.fields s.hdr, quant := u.quant, pos := s.pos + headerCut k } ∧
      ∀ i < 10, quantAt u i = if 320 + 16 * (i + 1) ≤ k then h.quant.getD i 0 else quantAt s i

/-- BAND.FILL (R200): tokens that stand for exactly the elements of the band fill it in row-major order, each value
expanded; POS stands after the last token, the band's bit is set, the table is built, SEQ.idx is the element count;
no other coefficient, level or register changes. That the rest of SEQ stays is the model's reading (log 16); the law is
the spec's default (log 14). -/
def Obligations.BandFillResult : Prop :=
  ∀ s lv (b : BitVec 8) id tokens rest, storageWf s → tableLegal s → bandReady s lv b.toNat →
    levelLegal s (levelAt s lv.c.toNat lv.l.toNat) →
    (bandAt (levelAt s lv.c.toNat lv.l.toNat) b.toNat).plane.buf = some id →
    (∀ t ∈ tokens, tokenLegal t) →
    (bandCoefs tokens).length =
      (levelAt s lv.c.toNat lv.l.toNat).width.toNat * (levelAt s lv.c.toNat lv.l.toNat).height.toNat →
    streamRest s = tokensBits tokens ++ rest →
    ∃ t, exec (.bandFill lv b) s = .next t ∧
      t = { s with
        pos := s.pos + (tokensBits tokens).length
        seq := { s.seq with idx := BitVec.ofNat 32 (bandCoefs tokens).length }
        ct := t.ct
        logt := logTable
        logtValid := true
        bufs := t.bufs
        result := .none } ∧
      levelAt t lv.c.toNat lv.l.toNat =
        { levelAt s lv.c.toNat lv.l.toNat with valid := (levelAt t lv.c.toNat lv.l.toNat).valid } ∧
      (∀ k < 4, validBit (levelAt t lv.c.toNat lv.l.toNat) k =
        (validBit (levelAt s lv.c.toNat lv.l.toNat) k || k == b.toNat)) ∧
      (∀ c l, (c ≠ lv.c.toNat ∨ l ≠ lv.l.toNat) → levelAt t c l = levelAt s c l) ∧
      (∀ c l, prescaleAt t c l = prescaleAt s c l) ∧
      (∀ e, coefAt t id e = (bandCoefs tokens)[e]?) ∧
      ∀ id' e, id' ≠ id → coefAt t id' e = coefAt s id' e

/-- Where BAND.FILL traps (R200; `60_exceptions.md` R225, R229). First its own checks: LevelIndex, LevelState,
BandIndex. Then, after the tokens `done`: a token that does not decode raises the error of RLV.DECODE where its decoder
stops; a token that stands for more elements than are left raises RunOverflow with its run, else one whose magnitude
is over 4095 raises LogIndex with it, both with the token consumed. The band keeps the earlier tokens' elements, no bit
of the mask changes, SEQ.idx is the count of placed elements (R204), and the table is built by the first expansion, one
that raises LogIndex included (`41_logtable.md` R143). What stands under the run of a LogIndex token is left open
(log 23). That SEQ keeps its phase, c, l and b is the model's reading (log 16); the law is the spec's default
(log 14). -/
def Obligations.BandFillTraps : Prop :=
  (∀ s lv b, 3 < lv.c.toNat ∨ 2 < lv.l.toNat →
    exec (.bandFill lv b) s = .next (trapped .levelIndex (lv.c.toNat * 256 + lv.l.toNat) s)) ∧
  (∀ s lv b, lv.c.toNat ≤ 3 → lv.l.toNat ≤ 2 → (levelAt s lv.c.toNat lv.l.toNat).init = false →
    exec (.bandFill lv b) s = .next (trapped .levelState (lv.c.toNat * 256 + lv.l.toNat) s)) ∧
  (∀ s lv b, lv.c.toNat ≤ 3 → lv.l.toNat ≤ 2 → (levelAt s lv.c.toNat lv.l.toNat).init = true →
    (levelAt s lv.c.toNat lv.l.toNat).numBands.toNat ≤ b.toNat →
    exec (.bandFill lv b) s = .next (trapped .bandIndex b.toNat s)) ∧
  (∀ s lv (b : BitVec 8) id done tail k cause, fillReady s lv b.toNat id done →
    streamRest s = tokensBits done ++ tail → tokenFault tail k cause →
    ∃ u, exec (.bandFill lv b) s = .next (trapped cause (s.pos + (tokensBits done).length + k) u) ∧
      u = { afterTokens done k (!done.isEmpty) s with bufs := u.bufs } ∧ fillKept s u id done ∧
      ∀ e, (bandCoefs done).length ≤ e → coefAt u id e = coefAt s id e) ∧
  (∀ s lv (b : BitVec 8) id done run (value : Int) rest, fillReady s lv b.toNat id done → run ≤ 8190 →
    value.natAbs ≤ 8190 → streamRest s = tokensBits done ++ tokenBits run value ++ rest →
    (levelAt s lv.c.toNat lv.l.toNat).width.toNat * (levelAt s lv.c.toNat lv.l.toNat).height.toNat <
      (bandCoefs done).length + run + 1 →
    ∃ u, exec (.bandFill lv b) s = .next (trapped .runOverflow run u) ∧
      u = { afterTokens done (tokenBits run value).length (!done.isEmpty) s with bufs := u.bufs } ∧
      fillKept s u id done ∧ ∀ e, (bandCoefs done).length ≤ e → coefAt u id e = coefAt s id e) ∧
  ∀ s lv (b : BitVec 8) id done run (value : Int) rest, fillReady s lv b.toNat id done → run ≤ 8190 →
    value.natAbs ≤ 8190 → streamRest s = tokensBits done ++ tokenBits run value ++ rest →
    (bandCoefs done).length + run + 1 ≤
      (levelAt s lv.c.toNat lv.l.toNat).width.toNat * (levelAt s lv.c.toNat lv.l.toNat).height.toNat →
    4095 < value.natAbs →
    ∃ u, exec (.bandFill lv b) s = .next (trapped .logIndex value.natAbs u) ∧
      u = { afterTokens done (tokenBits run value).length true s with bufs := u.bufs } ∧ fillKept s u id done ∧
      ∀ e, (bandCoefs done).length + run ≤ e → coefAt u id e = coefAt s id e

end
end

