-- ==== Sys2Proof/Laws/Memory.lean ====
section
/-! SUPPORT. Memory cells and coefficient buffers: read after write, and the canonical forms every operation keeps. -/

namespace Sys2Proof.Machine

/-! ## Cells -/

@[simp] theorem cellRead_nil {n : Nat} (a : Nat) : cellRead ([] : Cells n) a = 0 := rfl

theorem cellRead_cons {n : Nat} (k : Nat) (v : BitVec n) (m : Cells n) (a : Nat) :
    cellRead ((k, v) :: m) a = if k = a then v else cellRead m a := rfl

theorem cellRead_eq_zero_of_lt {n : Nat} (m : Cells n) (a : Nat) (h : ∀ c ∈ m, a < c.1) : cellRead m a = 0 := by
  induction m with
  | nil => rfl
  | cons c m ih =>
    obtain ⟨k, v⟩ := c
    have hk : a < k := h (k, v) (by simp)
    rw [cellRead_cons, if_neg (by omega)]
    exact ih fun c hc => h c (by simp [hc])

theorem cells_wf_cons {n : Nat} {k : Nat} {v : BitVec n} {m : Cells n} (h : Cells.wf ((k, v) :: m)) :
    (∀ c ∈ m, k < c.1) ∧ v ≠ 0#n ∧ Cells.wf m := by
  obtain ⟨h1, h2⟩ := h
  rw [List.pairwise_cons] at h1
  exact ⟨h1.1, h2 (k, v) (by simp), h1.2, fun c hc => h2 c (by simp [hc])⟩

/-- A read at the address written gives the value written. -/
theorem cellRead_cellWrite_same {n : Nat} (m : Cells n) (a : Nat) (v : BitVec n) (h : Cells.wf m) :
    cellRead (cellWrite m a v) a = v := by
  induction m with
  | nil =>
    simp only [cellWrite]
    split
    · simp_all
    · simp [cellRead]
  | cons c m ih =>
    obtain ⟨k, w⟩ := c
    obtain ⟨hk, _, hm⟩ := cells_wf_cons h
    simp only [cellWrite]
    split
    · rename_i hlt
      split
      · rename_i hv
        rw [hv]
        exact cellRead_eq_zero_of_lt _ _ (by
          intro c hc
          rcases List.mem_cons.mp hc with rfl | hc
          · exact hlt
          · exact hlt.trans (hk c hc))
      · simp [cellRead]
    · split
      · rename_i heq
        split
        · rename_i hv
          rw [hv]
          exact cellRead_eq_zero_of_lt _ _ fun c hc => by have := hk c hc; omega
        · simp [cellRead, heq]
      · rename_i hne
        rw [cellRead_cons, if_neg (fun e => hne e.symm)]
        exact ih hm

/-- A write leaves every other address alone. -/
theorem cellRead_cellWrite_ne {n : Nat} (m : Cells n) (a b : Nat) (v : BitVec n) (hab : b ≠ a) :
    cellRead (cellWrite m a v) b = cellRead m b := by
  induction m with
  | nil =>
    simp only [cellWrite]
    split
    · rfl
    · simp [cellRead, Ne.symm hab]
  | cons c m ih =>
    obtain ⟨k, w⟩ := c
    simp only [cellWrite]
    split
    · split
      · rfl
      · simp [cellRead, Ne.symm hab]
    · split
      · rename_i heq
        split
        · rw [cellRead_cons, if_neg (by omega)]
        · rw [cellRead_cons, cellRead_cons, if_neg (by omega), if_neg (by omega)]
      · rw [cellRead_cons, cellRead_cons, ih]

theorem cellWrite_mem {n : Nat} (m : Cells n) (a : Nat) (v : BitVec n) (c : Nat × BitVec n)
    (h : c ∈ cellWrite m a v) : c ∈ m ∨ (c = (a, v) ∧ v ≠ 0) := by
  induction m with
  | nil =>
    simp only [cellWrite] at h
    split at h <;> simp_all
  | cons d m ih =>
    obtain ⟨k, w⟩ := d
    simp only [cellWrite] at h
    split at h
    · split at h
      · exact .inl h
      · rcases List.mem_cons.mp h with rfl | h
        · exact .inr ⟨rfl, by assumption⟩
        · exact .inl h
    · split at h
      · rename_i heq
        split at h
        · exact .inl (by simp [h])
        · rcases List.mem_cons.mp h with rfl | h
          · exact .inr ⟨by rw [heq], by assumption⟩
          · exact .inl (by simp [h])
      · rcases List.mem_cons.mp h with rfl | h
        · exact .inl (by simp)
        · rcases ih h with h | h
          · exact .inl (by simp [h])
          · exact .inr h

/-- A write keeps the canonical form. -/
theorem cellWrite_wf {n : Nat} (m : Cells n) (a : Nat) (v : BitVec n) (h : Cells.wf m) :
    Cells.wf (cellWrite m a v) := by
  induction m with
  | nil =>
    simp only [cellWrite]
    split
    · exact h
    · rename_i hv
      exact ⟨by simp, by simpa using hv⟩
  | cons c m ih =>
    obtain ⟨k, w⟩ := c
    obtain ⟨hk, hw, hm⟩ := cells_wf_cons h
    simp only [cellWrite]
    split
    · rename_i hlt
      split
      · exact h
      · rename_i hv
        refine ⟨List.pairwise_cons.mpr ⟨?_, h.1⟩, ?_⟩
        · intro c hc
          rcases List.mem_cons.mp hc with rfl | hc
          · exact hlt
          · exact hlt.trans (hk c hc)
        · intro c hc
          rcases List.mem_cons.mp hc with rfl | hc
          · exact hv
          · exact h.2 c hc
    · rename_i hnlt
      split
      · split
        · exact hm
        · rename_i hv
          refine ⟨List.pairwise_cons.mpr ⟨hk, hm.1⟩, ?_⟩
          intro c hc
          rcases List.mem_cons.mp hc with rfl | hc
          · exact hv
          · exact hm.2 c hc
      · rename_i hne
        have ih' := ih hm
        refine ⟨List.pairwise_cons.mpr ⟨?_, ih'.1⟩, ?_⟩
        · intro c hc
          rcases cellWrite_mem m a v c hc with hc | ⟨rfl, _⟩
          · exact hk c hc
          · show k < a
            omega
        · intro c hc
          rcases List.mem_cons.mp hc with rfl | hc
          · exact hw
          · exact ih'.2 c hc

/-- Storing bytes keeps the canonical form. -/
theorem storeBytes_wf (m : Memory) (a : Nat) (bs : List Byte) (h : Cells.wf m) : Cells.wf (storeBytes m a bs) := by
  induction bs generalizing m a with
  | nil => exact h
  | cons b bs ih => exact ih _ _ (cellWrite_wf m a b h)

/-- Two canonical memories that read the same everywhere are equal. -/
theorem cells_ext {n : Nat} (m m' : Cells n) (h : Cells.wf m) (h' : Cells.wf m')
    (heq : ∀ a, cellRead m a = cellRead m' a) : m = m' := by
  induction m generalizing m' with
  | nil =>
    cases m' with
    | nil => rfl
    | cons c m' =>
      obtain ⟨k, v⟩ := c
      have := heq k
      simp [cellRead] at this
      exact absurd this.symm (cells_wf_cons h').2.1
  | cons c m ih =>
    obtain ⟨k, v⟩ := c
    obtain ⟨hk, hv, hm⟩ := cells_wf_cons h
    cases m' with
    | nil =>
      have := heq k
      simp [cellRead] at this
      exact absurd this hv
    | cons c' m' =>
      obtain ⟨k', v'⟩ := c'
      obtain ⟨hk', hv', hm'⟩ := cells_wf_cons h'
      have hkk : k = k' := by
        rcases Nat.lt_trichotomy k k' with hlt | heq' | hlt
        · have := heq k
          rw [cellRead_cons, if_pos rfl, cellRead_cons, if_neg (by omega),
            cellRead_eq_zero_of_lt m' k (fun c hc => hlt.trans (hk' c hc))] at this
          exact absurd this hv
        · exact heq'
        · have := heq k'
          rw [cellRead_cons, if_neg (by omega), cellRead_eq_zero_of_lt m k' (fun c hc => hlt.trans (hk c hc)),
            cellRead_cons, if_pos rfl] at this
          exact absurd this.symm hv'
      subst hkk
      have hvv : v = v' := by simpa [cellRead] using heq k
      subst hvv
      congr 1
      refine ih m' hm hm' fun a => ?_
      by_cases ha : k = a
      · subst ha
        rw [cellRead_eq_zero_of_lt m k hk, cellRead_eq_zero_of_lt m' k hk']
      · have := heq a
        rwa [cellRead_cons, if_neg ha, cellRead_cons, if_neg ha] at this

/-! ## Coefficient buffers -/

@[simp] theorem bufFind_bufPut_same (m : List (Nat × Buffer)) (id : Nat) (b : Buffer) :
    bufFind (bufPut m id b) id = some b := by
  induction m with
  | nil => simp [bufPut, bufFind]
  | cons e m ih =>
    obtain ⟨k, c⟩ := e
    simp only [bufPut]
    split
    · simp [bufFind]
    · split
      · simp [bufFind]
      · rename_i hne
        simp [bufFind, Ne.symm hne, ih]

theorem bufFind_bufPut_ne (m : List (Nat × Buffer)) (id id' : Nat) (b : Buffer) (h : id' ≠ id) :
    bufFind (bufPut m id b) id' = bufFind m id' := by
  induction m with
  | nil => simp [bufPut, bufFind, Ne.symm h]
  | cons e m ih =>
    obtain ⟨k, c⟩ := e
    simp only [bufPut]
    split
    · simp [bufFind, Ne.symm h]
    · split
      · rename_i heq
        subst heq
        simp [bufFind, Ne.symm h]
      · simp [bufFind, ih]

@[simp] theorem bufFind_bufDrop_same (m : List (Nat × Buffer)) (id : Nat) : bufFind (bufDrop m id) id = none := by
  induction m with
  | nil => rfl
  | cons e m ih =>
    obtain ⟨k, c⟩ := e
    by_cases hk : k = id
    · simpa [bufDrop, hk] using ih
    · have : bufDrop ((k, c) :: m) id = (k, c) :: bufDrop m id := by simp [bufDrop, hk]
      rw [this]
      simp [bufFind, hk, ih]

theorem bufFind_bufDrop_ne (m : List (Nat × Buffer)) (id id' : Nat) (h : id' ≠ id) :
    bufFind (bufDrop m id) id' = bufFind m id' := by
  induction m with
  | nil => rfl
  | cons e m ih =>
    obtain ⟨k, c⟩ := e
    by_cases hk : k = id
    · have : bufDrop ((k, c) :: m) id = bufDrop m id := by simp [bufDrop, hk]
      rw [this, ih]
      simp [bufFind, show k ≠ id' from fun e => h (by omega)]
    · have : bufDrop ((k, c) :: m) id = (k, c) :: bufDrop m id := by simp [bufDrop, hk]
      rw [this]
      simp [bufFind, ih]

theorem bufPut_mem (m : List (Nat × Buffer)) (id : Nat) (b : Buffer) (e : Nat × Buffer) (h : e ∈ bufPut m id b) :
    e ∈ m ∨ e = (id, b) := by
  induction m with
  | nil => exact .inr (by simpa [bufPut] using h)
  | cons d m ih =>
    obtain ⟨k, c⟩ := d
    simp only [bufPut] at h
    split at h
    · rcases List.mem_cons.mp h with rfl | h
      · exact .inr rfl
      · exact .inl h
    · split at h
      · rcases List.mem_cons.mp h with rfl | h
        · exact .inr rfl
        · exact .inl (by simp [h])
      · rcases List.mem_cons.mp h with rfl | h
        · exact .inl (by simp)
        · rcases ih h with h | h
          · exact .inl (by simp [h])
          · exact .inr h

/-- Putting a buffer keeps the ids rising. -/
theorem bufPut_rising (m : List (Nat × Buffer)) (id : Nat) (b : Buffer)
    (h : m.Pairwise fun a b => a.1 < b.1) : (bufPut m id b).Pairwise fun a b => a.1 < b.1 := by
  induction m with
  | nil => simp [bufPut]
  | cons e m ih =>
    obtain ⟨k, c⟩ := e
    obtain ⟨hk, hm⟩ := List.pairwise_cons.mp h
    simp only [bufPut]
    split
    · rename_i hlt
      refine List.pairwise_cons.mpr ⟨fun d hd => ?_, h⟩
      rcases List.mem_cons.mp hd with rfl | hd
      · exact hlt
      · exact hlt.trans (hk d hd)
    · split
      · rename_i heq
        subst heq
        exact List.pairwise_cons.mpr ⟨hk, hm⟩
      · refine List.pairwise_cons.mpr ⟨fun d hd => ?_, ih hm⟩
        rcases bufPut_mem m id b d hd with hd | rfl
        · exact hk d hd
        · show k < id
          omega

/-- Dropping a buffer keeps the ids rising. -/
theorem bufDrop_rising (m : List (Nat × Buffer)) (id : Nat) (h : m.Pairwise fun a b => a.1 < b.1) :
    (bufDrop m id).Pairwise fun a b => a.1 < b.1 := h.filter _

end Sys2Proof.Machine
end

