-- ==== Sys2Proof/Laws/State.lean ====
section
/-! SUPPORT. What each update of the state changes and leaves alone: one lemma per field per update. -/

namespace Sys2Proof.Machine

variable (s : State)

@[simp] theorem setPos_sess (n : Nat) : (setPos n s).sess = s.sess := rfl
@[simp] theorem setPos_pos (n : Nat) : (setPos n s).pos = n := rfl
@[simp] theorem setPos_seq (n : Nat) : (setPos n s).seq = s.seq := rfl
@[simp] theorem setPos_err (n : Nat) : (setPos n s).err = s.err := rfl
@[simp] theorem setPos_hdr (n : Nat) : (setPos n s).hdr = s.hdr := rfl
@[simp] theorem setPos_quant (n : Nat) : (setPos n s).quant = s.quant := rfl
@[simp] theorem setPos_ct (n : Nat) : (setPos n s).ct = s.ct := rfl
@[simp] theorem setPos_logt (n : Nat) : (setPos n s).logt = s.logt := rfl
@[simp] theorem setPos_logtValid (n : Nat) : (setPos n s).logtValid = s.logtValid := rfl
@[simp] theorem setPos_bufs (n : Nat) : (setPos n s).bufs = s.bufs := rfl
@[simp] theorem setPos_nextBuf (n : Nat) : (setPos n s).nextBuf = s.nextBuf := rfl
@[simp] theorem setPos_offx (n : Nat) : (setPos n s).offx = s.offx := rfl
@[simp] theorem setPos_offy (n : Nat) : (setPos n s).offy = s.offy := rfl
@[simp] theorem setPos_binding (n : Nat) : (setPos n s).binding = s.binding := rfl
@[simp] theorem setPos_mem (n : Nat) : (setPos n s).mem = s.mem := rfl
@[simp] theorem setPos_dest (n : Nat) : (setPos n s).dest = s.dest := rfl
@[simp] theorem setPos_epoch (n : Nat) : (setPos n s).epoch = s.epoch := rfl
@[simp] theorem setPos_result (n : Nat) : (setPos n s).result = s.result := rfl
@[simp] theorem setPos_inbox (n : Nat) : (setPos n s).inbox = s.inbox := rfl

@[simp] theorem setSess_sess (x : Sess) : (setSess x s).sess = x := rfl
@[simp] theorem setSess_pos (x : Sess) : (setSess x s).pos = s.pos := rfl
@[simp] theorem setSess_seq (x : Sess) : (setSess x s).seq = s.seq := rfl
@[simp] theorem setSess_err (x : Sess) : (setSess x s).err = s.err := rfl
@[simp] theorem setSess_hdr (x : Sess) : (setSess x s).hdr = s.hdr := rfl
@[simp] theorem setSess_quant (x : Sess) : (setSess x s).quant = s.quant := rfl
@[simp] theorem setSess_ct (x : Sess) : (setSess x s).ct = s.ct := rfl
@[simp] theorem setSess_logt (x : Sess) : (setSess x s).logt = s.logt := rfl
@[simp] theorem setSess_logtValid (x : Sess) : (setSess x s).logtValid = s.logtValid := rfl
@[simp] theorem setSess_bufs (x : Sess) : (setSess x s).bufs = s.bufs := rfl
@[simp] theorem setSess_nextBuf (x : Sess) : (setSess x s).nextBuf = s.nextBuf := rfl
@[simp] theorem setSess_offx (x : Sess) : (setSess x s).offx = s.offx := rfl
@[simp] theorem setSess_offy (x : Sess) : (setSess x s).offy = s.offy := rfl
@[simp] theorem setSess_binding (x : Sess) : (setSess x s).binding = s.binding := rfl
@[simp] theorem setSess_mem (x : Sess) : (setSess x s).mem = s.mem := rfl
@[simp] theorem setSess_dest (x : Sess) : (setSess x s).dest = s.dest := rfl
@[simp] theorem setSess_epoch (x : Sess) : (setSess x s).epoch = s.epoch := rfl
@[simp] theorem setSess_result (x : Sess) : (setSess x s).result = s.result := rfl
@[simp] theorem setSess_inbox (x : Sess) : (setSess x s).inbox = s.inbox := rfl

@[simp] theorem setSeq_sess (x : Seq) : (setSeq x s).sess = s.sess := rfl
@[simp] theorem setSeq_pos (x : Seq) : (setSeq x s).pos = s.pos := rfl
@[simp] theorem setSeq_seq (x : Seq) : (setSeq x s).seq = x := rfl
@[simp] theorem setSeq_err (x : Seq) : (setSeq x s).err = s.err := rfl
@[simp] theorem setSeq_hdr (x : Seq) : (setSeq x s).hdr = s.hdr := rfl
@[simp] theorem setSeq_quant (x : Seq) : (setSeq x s).quant = s.quant := rfl
@[simp] theorem setSeq_ct (x : Seq) : (setSeq x s).ct = s.ct := rfl
@[simp] theorem setSeq_logt (x : Seq) : (setSeq x s).logt = s.logt := rfl
@[simp] theorem setSeq_logtValid (x : Seq) : (setSeq x s).logtValid = s.logtValid := rfl
@[simp] theorem setSeq_bufs (x : Seq) : (setSeq x s).bufs = s.bufs := rfl
@[simp] theorem setSeq_nextBuf (x : Seq) : (setSeq x s).nextBuf = s.nextBuf := rfl
@[simp] theorem setSeq_offx (x : Seq) : (setSeq x s).offx = s.offx := rfl
@[simp] theorem setSeq_offy (x : Seq) : (setSeq x s).offy = s.offy := rfl
@[simp] theorem setSeq_binding (x : Seq) : (setSeq x s).binding = s.binding := rfl
@[simp] theorem setSeq_mem (x : Seq) : (setSeq x s).mem = s.mem := rfl
@[simp] theorem setSeq_dest (x : Seq) : (setSeq x s).dest = s.dest := rfl
@[simp] theorem setSeq_epoch (x : Seq) : (setSeq x s).epoch = s.epoch := rfl
@[simp] theorem setSeq_result (x : Seq) : (setSeq x s).result = s.result := rfl
@[simp] theorem setSeq_inbox (x : Seq) : (setSeq x s).inbox = s.inbox := rfl

@[simp] theorem setSeqIdx_sess (i : Nat) : (setSeqIdx i s).sess = s.sess := rfl
@[simp] theorem setSeqIdx_pos (i : Nat) : (setSeqIdx i s).pos = s.pos := rfl
@[simp] theorem setSeqIdx_seq (i : Nat) : (setSeqIdx i s).seq = { s.seq with idx := BitVec.ofNat 32 i } := rfl
@[simp] theorem setSeqIdx_err (i : Nat) : (setSeqIdx i s).err = s.err := rfl
@[simp] theorem setSeqIdx_hdr (i : Nat) : (setSeqIdx i s).hdr = s.hdr := rfl
@[simp] theorem setSeqIdx_quant (i : Nat) : (setSeqIdx i s).quant = s.quant := rfl
@[simp] theorem setSeqIdx_ct (i : Nat) : (setSeqIdx i s).ct = s.ct := rfl
@[simp] theorem setSeqIdx_logt (i : Nat) : (setSeqIdx i s).logt = s.logt := rfl
@[simp] theorem setSeqIdx_logtValid (i : Nat) : (setSeqIdx i s).logtValid = s.logtValid := rfl
@[simp] theorem setSeqIdx_bufs (i : Nat) : (setSeqIdx i s).bufs = s.bufs := rfl
@[simp] theorem setSeqIdx_nextBuf (i : Nat) : (setSeqIdx i s).nextBuf = s.nextBuf := rfl
@[simp] theorem setSeqIdx_offx (i : Nat) : (setSeqIdx i s).offx = s.offx := rfl
@[simp] theorem setSeqIdx_offy (i : Nat) : (setSeqIdx i s).offy = s.offy := rfl
@[simp] theorem setSeqIdx_binding (i : Nat) : (setSeqIdx i s).binding = s.binding := rfl
@[simp] theorem setSeqIdx_mem (i : Nat) : (setSeqIdx i s).mem = s.mem := rfl
@[simp] theorem setSeqIdx_dest (i : Nat) : (setSeqIdx i s).dest = s.dest := rfl
@[simp] theorem setSeqIdx_epoch (i : Nat) : (setSeqIdx i s).epoch = s.epoch := rfl
@[simp] theorem setSeqIdx_result (i : Nat) : (setSeqIdx i s).result = s.result := rfl
@[simp] theorem setSeqIdx_inbox (i : Nat) : (setSeqIdx i s).inbox = s.inbox := rfl

@[simp] theorem setHdr_sess (h : HdrFields) : (setHdr h s).sess = s.sess := rfl
@[simp] theorem setHdr_pos (h : HdrFields) : (setHdr h s).pos = s.pos := rfl
@[simp] theorem setHdr_seq (h : HdrFields) : (setHdr h s).seq = s.seq := rfl
@[simp] theorem setHdr_err (h : HdrFields) : (setHdr h s).err = s.err := rfl
@[simp] theorem setHdr_hdr (h : HdrFields) : (setHdr h s).hdr = h := rfl
@[simp] theorem setHdr_quant (h : HdrFields) : (setHdr h s).quant = s.quant := rfl
@[simp] theorem setHdr_ct (h : HdrFields) : (setHdr h s).ct = s.ct := rfl
@[simp] theorem setHdr_logt (h : HdrFields) : (setHdr h s).logt = s.logt := rfl
@[simp] theorem setHdr_logtValid (h : HdrFields) : (setHdr h s).logtValid = s.logtValid := rfl
@[simp] theorem setHdr_bufs (h : HdrFields) : (setHdr h s).bufs = s.bufs := rfl
@[simp] theorem setHdr_nextBuf (h : HdrFields) : (setHdr h s).nextBuf = s.nextBuf := rfl
@[simp] theorem setHdr_offx (h : HdrFields) : (setHdr h s).offx = s.offx := rfl
@[simp] theorem setHdr_offy (h : HdrFields) : (setHdr h s).offy = s.offy := rfl
@[simp] theorem setHdr_binding (h : HdrFields) : (setHdr h s).binding = s.binding := rfl
@[simp] theorem setHdr_mem (h : HdrFields) : (setHdr h s).mem = s.mem := rfl
@[simp] theorem setHdr_dest (h : HdrFields) : (setHdr h s).dest = s.dest := rfl
@[simp] theorem setHdr_epoch (h : HdrFields) : (setHdr h s).epoch = s.epoch := rfl
@[simp] theorem setHdr_result (h : HdrFields) : (setHdr h s).result = s.result := rfl
@[simp] theorem setHdr_inbox (h : HdrFields) : (setHdr h s).inbox = s.inbox := rfl

@[simp] theorem setQuant_sess (i : Nat) (q : U16) : (setQuant i q s).sess = s.sess := rfl
@[simp] theorem setQuant_pos (i : Nat) (q : U16) : (setQuant i q s).pos = s.pos := rfl
@[simp] theorem setQuant_seq (i : Nat) (q : U16) : (setQuant i q s).seq = s.seq := rfl
@[simp] theorem setQuant_err (i : Nat) (q : U16) : (setQuant i q s).err = s.err := rfl
@[simp] theorem setQuant_hdr (i : Nat) (q : U16) : (setQuant i q s).hdr = s.hdr := rfl
@[simp] theorem setQuant_quant (i : Nat) (q : U16) : (setQuant i q s).quant = s.quant.setIfInBounds i q := rfl
@[simp] theorem setQuant_ct (i : Nat) (q : U16) : (setQuant i q s).ct = s.ct := rfl
@[simp] theorem setQuant_logt (i : Nat) (q : U16) : (setQuant i q s).logt = s.logt := rfl
@[simp] theorem setQuant_logtValid (i : Nat) (q : U16) : (setQuant i q s).logtValid = s.logtValid := rfl
@[simp] theorem setQuant_bufs (i : Nat) (q : U16) : (setQuant i q s).bufs = s.bufs := rfl
@[simp] theorem setQuant_nextBuf (i : Nat) (q : U16) : (setQuant i q s).nextBuf = s.nextBuf := rfl
@[simp] theorem setQuant_offx (i : Nat) (q : U16) : (setQuant i q s).offx = s.offx := rfl
@[simp] theorem setQuant_offy (i : Nat) (q : U16) : (setQuant i q s).offy = s.offy := rfl
@[simp] theorem setQuant_binding (i : Nat) (q : U16) : (setQuant i q s).binding = s.binding := rfl
@[simp] theorem setQuant_mem (i : Nat) (q : U16) : (setQuant i q s).mem = s.mem := rfl
@[simp] theorem setQuant_dest (i : Nat) (q : U16) : (setQuant i q s).dest = s.dest := rfl
@[simp] theorem setQuant_epoch (i : Nat) (q : U16) : (setQuant i q s).epoch = s.epoch := rfl
@[simp] theorem setQuant_result (i : Nat) (q : U16) : (setQuant i q s).result = s.result := rfl
@[simp] theorem setQuant_inbox (i : Nat) (q : U16) : (setQuant i q s).inbox = s.inbox := rfl

@[simp] theorem setOffsets_sess (x y : U16) : (setOffsets x y s).sess = s.sess := rfl
@[simp] theorem setOffsets_pos (x y : U16) : (setOffsets x y s).pos = s.pos := rfl
@[simp] theorem setOffsets_seq (x y : U16) : (setOffsets x y s).seq = s.seq := rfl
@[simp] theorem setOffsets_err (x y : U16) : (setOffsets x y s).err = s.err := rfl
@[simp] theorem setOffsets_hdr (x y : U16) : (setOffsets x y s).hdr = s.hdr := rfl
@[simp] theorem setOffsets_quant (x y : U16) : (setOffsets x y s).quant = s.quant := rfl
@[simp] theorem setOffsets_ct (x y : U16) : (setOffsets x y s).ct = s.ct := rfl
@[simp] theorem setOffsets_logt (x y : U16) : (setOffsets x y s).logt = s.logt := rfl
@[simp] theorem setOffsets_logtValid (x y : U16) : (setOffsets x y s).logtValid = s.logtValid := rfl
@[simp] theorem setOffsets_bufs (x y : U16) : (setOffsets x y s).bufs = s.bufs := rfl
@[simp] theorem setOffsets_nextBuf (x y : U16) : (setOffsets x y s).nextBuf = s.nextBuf := rfl
@[simp] theorem setOffsets_offx (x y : U16) : (setOffsets x y s).offx = x := rfl
@[simp] theorem setOffsets_offy (x y : U16) : (setOffsets x y s).offy = y := rfl
@[simp] theorem setOffsets_binding (x y : U16) : (setOffsets x y s).binding = s.binding := rfl
@[simp] theorem setOffsets_mem (x y : U16) : (setOffsets x y s).mem = s.mem := rfl
@[simp] theorem setOffsets_dest (x y : U16) : (setOffsets x y s).dest = s.dest := rfl
@[simp] theorem setOffsets_epoch (x y : U16) : (setOffsets x y s).epoch = s.epoch := rfl
@[simp] theorem setOffsets_result (x y : U16) : (setOffsets x y s).result = s.result := rfl
@[simp] theorem setOffsets_inbox (x y : U16) : (setOffsets x y s).inbox = s.inbox := rfl

@[simp] theorem setBufs_sess (m : List (Nat × Buffer)) : (setBufs m s).sess = s.sess := rfl
@[simp] theorem setBufs_pos (m : List (Nat × Buffer)) : (setBufs m s).pos = s.pos := rfl
@[simp] theorem setBufs_seq (m : List (Nat × Buffer)) : (setBufs m s).seq = s.seq := rfl
@[simp] theorem setBufs_err (m : List (Nat × Buffer)) : (setBufs m s).err = s.err := rfl
@[simp] theorem setBufs_hdr (m : List (Nat × Buffer)) : (setBufs m s).hdr = s.hdr := rfl
@[simp] theorem setBufs_quant (m : List (Nat × Buffer)) : (setBufs m s).quant = s.quant := rfl
@[simp] theorem setBufs_ct (m : List (Nat × Buffer)) : (setBufs m s).ct = s.ct := rfl
@[simp] theorem setBufs_logt (m : List (Nat × Buffer)) : (setBufs m s).logt = s.logt := rfl
@[simp] theorem setBufs_logtValid (m : List (Nat × Buffer)) : (setBufs m s).logtValid = s.logtValid := rfl
@[simp] theorem setBufs_bufs (m : List (Nat × Buffer)) : (setBufs m s).bufs = m := rfl
@[simp] theorem setBufs_nextBuf (m : List (Nat × Buffer)) : (setBufs m s).nextBuf = s.nextBuf := rfl
@[simp] theorem setBufs_offx (m : List (Nat × Buffer)) : (setBufs m s).offx = s.offx := rfl
@[simp] theorem setBufs_offy (m : List (Nat × Buffer)) : (setBufs m s).offy = s.offy := rfl
@[simp] theorem setBufs_binding (m : List (Nat × Buffer)) : (setBufs m s).binding = s.binding := rfl
@[simp] theorem setBufs_mem (m : List (Nat × Buffer)) : (setBufs m s).mem = s.mem := rfl
@[simp] theorem setBufs_dest (m : List (Nat × Buffer)) : (setBufs m s).dest = s.dest := rfl
@[simp] theorem setBufs_epoch (m : List (Nat × Buffer)) : (setBufs m s).epoch = s.epoch := rfl
@[simp] theorem setBufs_result (m : List (Nat × Buffer)) : (setBufs m s).result = s.result := rfl
@[simp] theorem setBufs_inbox (m : List (Nat × Buffer)) : (setBufs m s).inbox = s.inbox := rfl

@[simp] theorem setNextBuf_sess (n : Nat) : (setNextBuf n s).sess = s.sess := rfl
@[simp] theorem setNextBuf_pos (n : Nat) : (setNextBuf n s).pos = s.pos := rfl
@[simp] theorem setNextBuf_seq (n : Nat) : (setNextBuf n s).seq = s.seq := rfl
@[simp] theorem setNextBuf_err (n : Nat) : (setNextBuf n s).err = s.err := rfl
@[simp] theorem setNextBuf_hdr (n : Nat) : (setNextBuf n s).hdr = s.hdr := rfl
@[simp] theorem setNextBuf_quant (n : Nat) : (setNextBuf n s).quant = s.quant := rfl
@[simp] theorem setNextBuf_ct (n : Nat) : (setNextBuf n s).ct = s.ct := rfl
@[simp] theorem setNextBuf_logt (n : Nat) : (setNextBuf n s).logt = s.logt := rfl
@[simp] theorem setNextBuf_logtValid (n : Nat) : (setNextBuf n s).logtValid = s.logtValid := rfl
@[simp] theorem setNextBuf_bufs (n : Nat) : (setNextBuf n s).bufs = s.bufs := rfl
@[simp] theorem setNextBuf_nextBuf (n : Nat) : (setNextBuf n s).nextBuf = n := rfl
@[simp] theorem setNextBuf_offx (n : Nat) : (setNextBuf n s).offx = s.offx := rfl
@[simp] theorem setNextBuf_offy (n : Nat) : (setNextBuf n s).offy = s.offy := rfl
@[simp] theorem setNextBuf_binding (n : Nat) : (setNextBuf n s).binding = s.binding := rfl
@[simp] theorem setNextBuf_mem (n : Nat) : (setNextBuf n s).mem = s.mem := rfl
@[simp] theorem setNextBuf_dest (n : Nat) : (setNextBuf n s).dest = s.dest := rfl
@[simp] theorem setNextBuf_epoch (n : Nat) : (setNextBuf n s).epoch = s.epoch := rfl
@[simp] theorem setNextBuf_result (n : Nat) : (setNextBuf n s).result = s.result := rfl
@[simp] theorem setNextBuf_inbox (n : Nat) : (setNextBuf n s).inbox = s.inbox := rfl

@[simp] theorem setDest_sess (m : Cells 16) : (setDest m s).sess = s.sess := rfl
@[simp] theorem setDest_pos (m : Cells 16) : (setDest m s).pos = s.pos := rfl
@[simp] theorem setDest_seq (m : Cells 16) : (setDest m s).seq = s.seq := rfl
@[simp] theorem setDest_err (m : Cells 16) : (setDest m s).err = s.err := rfl
@[simp] theorem setDest_hdr (m : Cells 16) : (setDest m s).hdr = s.hdr := rfl
@[simp] theorem setDest_quant (m : Cells 16) : (setDest m s).quant = s.quant := rfl
@[simp] theorem setDest_ct (m : Cells 16) : (setDest m s).ct = s.ct := rfl
@[simp] theorem setDest_logt (m : Cells 16) : (setDest m s).logt = s.logt := rfl
@[simp] theorem setDest_logtValid (m : Cells 16) : (setDest m s).logtValid = s.logtValid := rfl
@[simp] theorem setDest_bufs (m : Cells 16) : (setDest m s).bufs = s.bufs := rfl
@[simp] theorem setDest_nextBuf (m : Cells 16) : (setDest m s).nextBuf = s.nextBuf := rfl
@[simp] theorem setDest_offx (m : Cells 16) : (setDest m s).offx = s.offx := rfl
@[simp] theorem setDest_offy (m : Cells 16) : (setDest m s).offy = s.offy := rfl
@[simp] theorem setDest_binding (m : Cells 16) : (setDest m s).binding = s.binding := rfl
@[simp] theorem setDest_mem (m : Cells 16) : (setDest m s).mem = s.mem := rfl
@[simp] theorem setDest_dest (m : Cells 16) : (setDest m s).dest = m := rfl
@[simp] theorem setDest_epoch (m : Cells 16) : (setDest m s).epoch = s.epoch := rfl
@[simp] theorem setDest_result (m : Cells 16) : (setDest m s).result = s.result := rfl
@[simp] theorem setDest_inbox (m : Cells 16) : (setDest m s).inbox = s.inbox := rfl

@[simp] theorem setLogt_sess (t : List Coef) : (setLogt t s).sess = s.sess := rfl
@[simp] theorem setLogt_pos (t : List Coef) : (setLogt t s).pos = s.pos := rfl
@[simp] theorem setLogt_seq (t : List Coef) : (setLogt t s).seq = s.seq := rfl
@[simp] theorem setLogt_err (t : List Coef) : (setLogt t s).err = s.err := rfl
@[simp] theorem setLogt_hdr (t : List Coef) : (setLogt t s).hdr = s.hdr := rfl
@[simp] theorem setLogt_quant (t : List Coef) : (setLogt t s).quant = s.quant := rfl
@[simp] theorem setLogt_ct (t : List Coef) : (setLogt t s).ct = s.ct := rfl
@[simp] theorem setLogt_logt (t : List Coef) : (setLogt t s).logt = t := rfl
@[simp] theorem setLogt_logtValid (t : List Coef) : (setLogt t s).logtValid = true := rfl
@[simp] theorem setLogt_bufs (t : List Coef) : (setLogt t s).bufs = s.bufs := rfl
@[simp] theorem setLogt_nextBuf (t : List Coef) : (setLogt t s).nextBuf = s.nextBuf := rfl
@[simp] theorem setLogt_offx (t : List Coef) : (setLogt t s).offx = s.offx := rfl
@[simp] theorem setLogt_offy (t : List Coef) : (setLogt t s).offy = s.offy := rfl
@[simp] theorem setLogt_binding (t : List Coef) : (setLogt t s).binding = s.binding := rfl
@[simp] theorem setLogt_mem (t : List Coef) : (setLogt t s).mem = s.mem := rfl
@[simp] theorem setLogt_dest (t : List Coef) : (setLogt t s).dest = s.dest := rfl
@[simp] theorem setLogt_epoch (t : List Coef) : (setLogt t s).epoch = s.epoch := rfl
@[simp] theorem setLogt_result (t : List Coef) : (setLogt t s).result = s.result := rfl
@[simp] theorem setLogt_inbox (t : List Coef) : (setLogt t s).inbox = s.inbox := rfl

@[simp] theorem setBinding_sess (b : Option Binding) : (setBinding b s).sess = s.sess := rfl
@[simp] theorem setBinding_pos (b : Option Binding) : (setBinding b s).pos = s.pos := rfl
@[simp] theorem setBinding_seq (b : Option Binding) : (setBinding b s).seq = s.seq := rfl
@[simp] theorem setBinding_err (b : Option Binding) : (setBinding b s).err = s.err := rfl
@[simp] theorem setBinding_hdr (b : Option Binding) : (setBinding b s).hdr = s.hdr := rfl
@[simp] theorem setBinding_quant (b : Option Binding) : (setBinding b s).quant = s.quant := rfl
@[simp] theorem setBinding_ct (b : Option Binding) : (setBinding b s).ct = s.ct := rfl
@[simp] theorem setBinding_logt (b : Option Binding) : (setBinding b s).logt = s.logt := rfl
@[simp] theorem setBinding_logtValid (b : Option Binding) : (setBinding b s).logtValid = s.logtValid := rfl
@[simp] theorem setBinding_bufs (b : Option Binding) : (setBinding b s).bufs = s.bufs := rfl
@[simp] theorem setBinding_nextBuf (b : Option Binding) : (setBinding b s).nextBuf = s.nextBuf := rfl
@[simp] theorem setBinding_offx (b : Option Binding) : (setBinding b s).offx = s.offx := rfl
@[simp] theorem setBinding_offy (b : Option Binding) : (setBinding b s).offy = s.offy := rfl
@[simp] theorem setBinding_binding (b : Option Binding) : (setBinding b s).binding = b := rfl
@[simp] theorem setBinding_mem (b : Option Binding) : (setBinding b s).mem = s.mem := rfl
@[simp] theorem setBinding_dest (b : Option Binding) : (setBinding b s).dest = s.dest := rfl
@[simp] theorem setBinding_epoch (b : Option Binding) : (setBinding b s).epoch = s.epoch := rfl
@[simp] theorem setBinding_result (b : Option Binding) : (setBinding b s).result = s.result := rfl
@[simp] theorem setBinding_inbox (b : Option Binding) : (setBinding b s).inbox = s.inbox := rfl

@[simp] theorem setInbox_sess (q : List Request) : (setInbox q s).sess = s.sess := rfl
@[simp] theorem setInbox_pos (q : List Request) : (setInbox q s).pos = s.pos := rfl
@[simp] theorem setInbox_seq (q : List Request) : (setInbox q s).seq = s.seq := rfl
@[simp] theorem setInbox_err (q : List Request) : (setInbox q s).err = s.err := rfl
@[simp] theorem setInbox_hdr (q : List Request) : (setInbox q s).hdr = s.hdr := rfl
@[simp] theorem setInbox_quant (q : List Request) : (setInbox q s).quant = s.quant := rfl
@[simp] theorem setInbox_ct (q : List Request) : (setInbox q s).ct = s.ct := rfl
@[simp] theorem setInbox_logt (q : List Request) : (setInbox q s).logt = s.logt := rfl
@[simp] theorem setInbox_logtValid (q : List Request) : (setInbox q s).logtValid = s.logtValid := rfl
@[simp] theorem setInbox_bufs (q : List Request) : (setInbox q s).bufs = s.bufs := rfl
@[simp] theorem setInbox_nextBuf (q : List Request) : (setInbox q s).nextBuf = s.nextBuf := rfl
@[simp] theorem setInbox_offx (q : List Request) : (setInbox q s).offx = s.offx := rfl
@[simp] theorem setInbox_offy (q : List Request) : (setInbox q s).offy = s.offy := rfl
@[simp] theorem setInbox_binding (q : List Request) : (setInbox q s).binding = s.binding := rfl
@[simp] theorem setInbox_mem (q : List Request) : (setInbox q s).mem = s.mem := rfl
@[simp] theorem setInbox_dest (q : List Request) : (setInbox q s).dest = s.dest := rfl
@[simp] theorem setInbox_epoch (q : List Request) : (setInbox q s).epoch = s.epoch := rfl
@[simp] theorem setInbox_result (q : List Request) : (setInbox q s).result = s.result := rfl
@[simp] theorem setInbox_inbox (q : List Request) : (setInbox q s).inbox = q := rfl

@[simp] theorem setResult_sess (r : Result) : (setResult r s).sess = s.sess := rfl
@[simp] theorem setResult_pos (r : Result) : (setResult r s).pos = s.pos := rfl
@[simp] theorem setResult_seq (r : Result) : (setResult r s).seq = s.seq := rfl
@[simp] theorem setResult_err (r : Result) : (setResult r s).err = s.err := rfl
@[simp] theorem setResult_hdr (r : Result) : (setResult r s).hdr = s.hdr := rfl
@[simp] theorem setResult_quant (r : Result) : (setResult r s).quant = s.quant := rfl
@[simp] theorem setResult_ct (r : Result) : (setResult r s).ct = s.ct := rfl
@[simp] theorem setResult_logt (r : Result) : (setResult r s).logt = s.logt := rfl
@[simp] theorem setResult_logtValid (r : Result) : (setResult r s).logtValid = s.logtValid := rfl
@[simp] theorem setResult_bufs (r : Result) : (setResult r s).bufs = s.bufs := rfl
@[simp] theorem setResult_nextBuf (r : Result) : (setResult r s).nextBuf = s.nextBuf := rfl
@[simp] theorem setResult_offx (r : Result) : (setResult r s).offx = s.offx := rfl
@[simp] theorem setResult_offy (r : Result) : (setResult r s).offy = s.offy := rfl
@[simp] theorem setResult_binding (r : Result) : (setResult r s).binding = s.binding := rfl
@[simp] theorem setResult_mem (r : Result) : (setResult r s).mem = s.mem := rfl
@[simp] theorem setResult_dest (r : Result) : (setResult r s).dest = s.dest := rfl
@[simp] theorem setResult_epoch (r : Result) : (setResult r s).epoch = s.epoch := rfl
@[simp] theorem setResult_result (r : Result) : (setResult r s).result = r := rfl
@[simp] theorem setResult_inbox (r : Result) : (setResult r s).inbox = s.inbox := rfl

@[simp] theorem setChannel_sess (c : Nat) (ch : Channel) : (setChannel c ch s).sess = s.sess := rfl
@[simp] theorem setChannel_pos (c : Nat) (ch : Channel) : (setChannel c ch s).pos = s.pos := rfl
@[simp] theorem setChannel_seq (c : Nat) (ch : Channel) : (setChannel c ch s).seq = s.seq := rfl
@[simp] theorem setChannel_err (c : Nat) (ch : Channel) : (setChannel c ch s).err = s.err := rfl
@[simp] theorem setChannel_hdr (c : Nat) (ch : Channel) : (setChannel c ch s).hdr = s.hdr := rfl
@[simp] theorem setChannel_quant (c : Nat) (ch : Channel) : (setChannel c ch s).quant = s.quant := rfl
@[simp] theorem setChannel_ct (c : Nat) (ch : Channel) : (setChannel c ch s).ct = s.ct.setIfInBounds c ch := rfl
@[simp] theorem setChannel_logt (c : Nat) (ch : Channel) : (setChannel c ch s).logt = s.logt := rfl
@[simp] theorem setChannel_logtValid (c : Nat) (ch : Channel) : (setChannel c ch s).logtValid = s.logtValid := rfl
@[simp] theorem setChannel_bufs (c : Nat) (ch : Channel) : (setChannel c ch s).bufs = s.bufs := rfl
@[simp] theorem setChannel_nextBuf (c : Nat) (ch : Channel) : (setChannel c ch s).nextBuf = s.nextBuf := rfl
@[simp] theorem setChannel_offx (c : Nat) (ch : Channel) : (setChannel c ch s).offx = s.offx := rfl
@[simp] theorem setChannel_offy (c : Nat) (ch : Channel) : (setChannel c ch s).offy = s.offy := rfl
@[simp] theorem setChannel_binding (c : Nat) (ch : Channel) : (setChannel c ch s).binding = s.binding := rfl
@[simp] theorem setChannel_mem (c : Nat) (ch : Channel) : (setChannel c ch s).mem = s.mem := rfl
@[simp] theorem setChannel_dest (c : Nat) (ch : Channel) : (setChannel c ch s).dest = s.dest := rfl
@[simp] theorem setChannel_epoch (c : Nat) (ch : Channel) : (setChannel c ch s).epoch = s.epoch := rfl
@[simp] theorem setChannel_result (c : Nat) (ch : Channel) : (setChannel c ch s).result = s.result := rfl
@[simp] theorem setChannel_inbox (c : Nat) (ch : Channel) : (setChannel c ch s).inbox = s.inbox := rfl

@[simp] theorem setLevel_sess (c l : Nat) (lev : Level) : (setLevel c l lev s).sess = s.sess := rfl
@[simp] theorem setLevel_pos (c l : Nat) (lev : Level) : (setLevel c l lev s).pos = s.pos := rfl
@[simp] theorem setLevel_seq (c l : Nat) (lev : Level) : (setLevel c l lev s).seq = s.seq := rfl
@[simp] theorem setLevel_err (c l : Nat) (lev : Level) : (setLevel c l lev s).err = s.err := rfl
@[simp] theorem setLevel_hdr (c l : Nat) (lev : Level) : (setLevel c l lev s).hdr = s.hdr := rfl
@[simp] theorem setLevel_quant (c l : Nat) (lev : Level) : (setLevel c l lev s).quant = s.quant := rfl
@[simp] theorem setLevel_logt (c l : Nat) (lev : Level) : (setLevel c l lev s).logt = s.logt := rfl
@[simp] theorem setLevel_logtValid (c l : Nat) (lev : Level) : (setLevel c l lev s).logtValid = s.logtValid := rfl
@[simp] theorem setLevel_bufs (c l : Nat) (lev : Level) : (setLevel c l lev s).bufs = s.bufs := rfl
@[simp] theorem setLevel_nextBuf (c l : Nat) (lev : Level) : (setLevel c l lev s).nextBuf = s.nextBuf := rfl
@[simp] theorem setLevel_offx (c l : Nat) (lev : Level) : (setLevel c l lev s).offx = s.offx := rfl
@[simp] theorem setLevel_offy (c l : Nat) (lev : Level) : (setLevel c l lev s).offy = s.offy := rfl
@[simp] theorem setLevel_binding (c l : Nat) (lev : Level) : (setLevel c l lev s).binding = s.binding := rfl
@[simp] theorem setLevel_mem (c l : Nat) (lev : Level) : (setLevel c l lev s).mem = s.mem := rfl
@[simp] theorem setLevel_dest (c l : Nat) (lev : Level) : (setLevel c l lev s).dest = s.dest := rfl
@[simp] theorem setLevel_epoch (c l : Nat) (lev : Level) : (setLevel c l lev s).epoch = s.epoch := rfl
@[simp] theorem setLevel_result (c l : Nat) (lev : Level) : (setLevel c l lev s).result = s.result := rfl
@[simp] theorem setLevel_inbox (c l : Nat) (lev : Level) : (setLevel c l lev s).inbox = s.inbox := rfl

@[simp] theorem setPrescale_sess (c l : Nat) (p : BitVec 4) : (setPrescale c l p s).sess = s.sess := rfl
@[simp] theorem setPrescale_pos (c l : Nat) (p : BitVec 4) : (setPrescale c l p s).pos = s.pos := rfl
@[simp] theorem setPrescale_seq (c l : Nat) (p : BitVec 4) : (setPrescale c l p s).seq = s.seq := rfl
@[simp] theorem setPrescale_err (c l : Nat) (p : BitVec 4) : (setPrescale c l p s).err = s.err := rfl
@[simp] theorem setPrescale_hdr (c l : Nat) (p : BitVec 4) : (setPrescale c l p s).hdr = s.hdr := rfl
@[simp] theorem setPrescale_quant (c l : Nat) (p : BitVec 4) : (setPrescale c l p s).quant = s.quant := rfl
@[simp] theorem setPrescale_logt (c l : Nat) (p : BitVec 4) : (setPrescale c l p s).logt = s.logt := rfl
@[simp] theorem setPrescale_logtValid (c l : Nat) (p : BitVec 4) : (setPrescale c l p s).logtValid = s.logtValid := rfl
@[simp] theorem setPrescale_bufs (c l : Nat) (p : BitVec 4) : (setPrescale c l p s).bufs = s.bufs := rfl
@[simp] theorem setPrescale_nextBuf (c l : Nat) (p : BitVec 4) : (setPrescale c l p s).nextBuf = s.nextBuf := rfl
@[simp] theorem setPrescale_offx (c l : Nat) (p : BitVec 4) : (setPrescale c l p s).offx = s.offx := rfl
@[simp] theorem setPrescale_offy (c l : Nat) (p : BitVec 4) : (setPrescale c l p s).offy = s.offy := rfl
@[simp] theorem setPrescale_binding (c l : Nat) (p : BitVec 4) : (setPrescale c l p s).binding = s.binding := rfl
@[simp] theorem setPrescale_mem (c l : Nat) (p : BitVec 4) : (setPrescale c l p s).mem = s.mem := rfl
@[simp] theorem setPrescale_dest (c l : Nat) (p : BitVec 4) : (setPrescale c l p s).dest = s.dest := rfl
@[simp] theorem setPrescale_epoch (c l : Nat) (p : BitVec 4) : (setPrescale c l p s).epoch = s.epoch := rfl
@[simp] theorem setPrescale_result (c l : Nat) (p : BitVec 4) : (setPrescale c l p s).result = s.result := rfl
@[simp] theorem setPrescale_inbox (c l : Nat) (p : BitVec 4) : (setPrescale c l p s).inbox = s.inbox := rfl

/-! ## Reads of levels and prescale registers after updates that leave CT alone -/

@[simp] theorem levelAt_setPos (n : Nat) (c' l' : Nat) : levelAt (setPos n s) c' l' = levelAt s c' l' := rfl
@[simp] theorem prescaleAt_setPos (n : Nat) (c' l' : Nat) : prescaleAt (setPos n s) c' l' = prescaleAt s c' l' := rfl
@[simp] theorem levelAt_setSess (x : Sess) (c' l' : Nat) : levelAt (setSess x s) c' l' = levelAt s c' l' := rfl
@[simp] theorem prescaleAt_setSess (x : Sess) (c' l' : Nat) : prescaleAt (setSess x s) c' l' = prescaleAt s c' l' := rfl
@[simp] theorem levelAt_setSeq (x : Seq) (c' l' : Nat) : levelAt (setSeq x s) c' l' = levelAt s c' l' := rfl
@[simp] theorem prescaleAt_setSeq (x : Seq) (c' l' : Nat) : prescaleAt (setSeq x s) c' l' = prescaleAt s c' l' := rfl
@[simp] theorem levelAt_setSeqIdx (i : Nat) (c' l' : Nat) : levelAt (setSeqIdx i s) c' l' = levelAt s c' l' := rfl
@[simp] theorem prescaleAt_setSeqIdx (i : Nat) (c' l' : Nat) : prescaleAt (setSeqIdx i s) c' l' = prescaleAt s c' l' := rfl
@[simp] theorem levelAt_setHdr (h : HdrFields) (c' l' : Nat) : levelAt (setHdr h s) c' l' = levelAt s c' l' := rfl
@[simp] theorem prescaleAt_setHdr (h : HdrFields) (c' l' : Nat) : prescaleAt (setHdr h s) c' l' = prescaleAt s c' l' := rfl
@[simp] theorem levelAt_setQuant (i : Nat) (q : U16) (c' l' : Nat) : levelAt (setQuant i q s) c' l' = levelAt s c' l' := rfl
@[simp] theorem prescaleAt_setQuant (i : Nat) (q : U16) (c' l' : Nat) : prescaleAt (setQuant i q s) c' l' = prescaleAt s c' l' := rfl
@[simp] theorem levelAt_setOffsets (x y : U16) (c' l' : Nat) : levelAt (setOffsets x y s) c' l' = levelAt s c' l' := rfl
@[simp] theorem prescaleAt_setOffsets (x y : U16) (c' l' : Nat) : prescaleAt (setOffsets x y s) c' l' = prescaleAt s c' l' := rfl
@[simp] theorem levelAt_setBufs (m : List (Nat × Buffer)) (c' l' : Nat) : levelAt (setBufs m s) c' l' = levelAt s c' l' := rfl
@[simp] theorem prescaleAt_setBufs (m : List (Nat × Buffer)) (c' l' : Nat) : prescaleAt (setBufs m s) c' l' = prescaleAt s c' l' := rfl
@[simp] theorem levelAt_setNextBuf (n : Nat) (c' l' : Nat) : levelAt (setNextBuf n s) c' l' = levelAt s c' l' := rfl
@[simp] theorem prescaleAt_setNextBuf (n : Nat) (c' l' : Nat) : prescaleAt (setNextBuf n s) c' l' = prescaleAt s c' l' := rfl
@[simp] theorem levelAt_setDest (m : Cells 16) (c' l' : Nat) : levelAt (setDest m s) c' l' = levelAt s c' l' := rfl
@[simp] theorem prescaleAt_setDest (m : Cells 16) (c' l' : Nat) : prescaleAt (setDest m s) c' l' = prescaleAt s c' l' := rfl
@[simp] theorem levelAt_setLogt (t : List Coef) (c' l' : Nat) : levelAt (setLogt t s) c' l' = levelAt s c' l' := rfl
@[simp] theorem prescaleAt_setLogt (t : List Coef) (c' l' : Nat) : prescaleAt (setLogt t s) c' l' = prescaleAt s c' l' := rfl
@[simp] theorem levelAt_setBinding (b : Option Binding) (c' l' : Nat) : levelAt (setBinding b s) c' l' = levelAt s c' l' := rfl
@[simp] theorem prescaleAt_setBinding (b : Option Binding) (c' l' : Nat) : prescaleAt (setBinding b s) c' l' = prescaleAt s c' l' := rfl
@[simp] theorem levelAt_setInbox (q : List Request) (c' l' : Nat) : levelAt (setInbox q s) c' l' = levelAt s c' l' := rfl
@[simp] theorem prescaleAt_setInbox (q : List Request) (c' l' : Nat) : prescaleAt (setInbox q s) c' l' = prescaleAt s c' l' := rfl
@[simp] theorem levelAt_setResult (r : Result) (c' l' : Nat) : levelAt (setResult r s) c' l' = levelAt s c' l' := rfl
@[simp] theorem prescaleAt_setResult (r : Result) (c' l' : Nat) : prescaleAt (setResult r s) c' l' = prescaleAt s c' l' := rfl

/-! ## Reads of the stream after updates that leave IN alone -/

@[simp] theorem streamEnd_setPos (n : Nat) : streamEnd (setPos n s) = streamEnd s := rfl
@[simp] theorem streamBit_setPos (n : Nat) (p' : Nat) : streamBit (setPos n s) p' = streamBit s p' := rfl
@[simp] theorem streamBits_setPos (n : Nat) (p' n' : Nat) : streamBits (setPos n s) p' n' = streamBits s p' n' := rfl
@[simp] theorem streamEnd_setSess (x : Sess) : streamEnd (setSess x s) = streamEnd s := rfl
@[simp] theorem streamBit_setSess (x : Sess) (p' : Nat) : streamBit (setSess x s) p' = streamBit s p' := rfl
@[simp] theorem streamBits_setSess (x : Sess) (p' n' : Nat) : streamBits (setSess x s) p' n' = streamBits s p' n' := rfl
@[simp] theorem streamEnd_setSeq (x : Seq) : streamEnd (setSeq x s) = streamEnd s := rfl
@[simp] theorem streamBit_setSeq (x : Seq) (p' : Nat) : streamBit (setSeq x s) p' = streamBit s p' := rfl
@[simp] theorem streamBits_setSeq (x : Seq) (p' n' : Nat) : streamBits (setSeq x s) p' n' = streamBits s p' n' := rfl
@[simp] theorem streamEnd_setSeqIdx (i : Nat) : streamEnd (setSeqIdx i s) = streamEnd s := rfl
@[simp] theorem streamBit_setSeqIdx (i : Nat) (p' : Nat) : streamBit (setSeqIdx i s) p' = streamBit s p' := rfl
@[simp] theorem streamBits_setSeqIdx (i : Nat) (p' n' : Nat) : streamBits (setSeqIdx i s) p' n' = streamBits s p' n' := rfl
@[simp] theorem streamEnd_setHdr (h : HdrFields) : streamEnd (setHdr h s) = streamEnd s := rfl
@[simp] theorem streamBit_setHdr (h : HdrFields) (p' : Nat) : streamBit (setHdr h s) p' = streamBit s p' := rfl
@[simp] theorem streamBits_setHdr (h : HdrFields) (p' n' : Nat) : streamBits (setHdr h s) p' n' = streamBits s p' n' := rfl
@[simp] theorem streamEnd_setQuant (i : Nat) (q : U16) : streamEnd (setQuant i q s) = streamEnd s := rfl
@[simp] theorem streamBit_setQuant (i : Nat) (q : U16) (p' : Nat) : streamBit (setQuant i q s) p' = streamBit s p' := rfl
@[simp] theorem streamBits_setQuant (i : Nat) (q : U16) (p' n' : Nat) : streamBits (setQuant i q s) p' n' = streamBits s p' n' := rfl
@[simp] theorem streamEnd_setOffsets (x y : U16) : streamEnd (setOffsets x y s) = streamEnd s := rfl
@[simp] theorem streamBit_setOffsets (x y : U16) (p' : Nat) : streamBit (setOffsets x y s) p' = streamBit s p' := rfl
@[simp] theorem streamBits_setOffsets (x y : U16) (p' n' : Nat) : streamBits (setOffsets x y s) p' n' = streamBits s p' n' := rfl
@[simp] theorem streamEnd_setBufs (m : List (Nat × Buffer)) : streamEnd (setBufs m s) = streamEnd s := rfl
@[simp] theorem streamBit_setBufs (m : List (Nat × Buffer)) (p' : Nat) : streamBit (setBufs m s) p' = streamBit s p' := rfl
@[simp] theorem streamBits_setBufs (m : List (Nat × Buffer)) (p' n' : Nat) : streamBits (setBufs m s) p' n' = streamBits s p' n' := rfl
@[simp] theorem streamEnd_setNextBuf (n : Nat) : streamEnd (setNextBuf n s) = streamEnd s := rfl
@[simp] theorem streamBit_setNextBuf (n : Nat) (p' : Nat) : streamBit (setNextBuf n s) p' = streamBit s p' := rfl
@[simp] theorem streamBits_setNextBuf (n : Nat) (p' n' : Nat) : streamBits (setNextBuf n s) p' n' = streamBits s p' n' := rfl
@[simp] theorem streamEnd_setDest (m : Cells 16) : streamEnd (setDest m s) = streamEnd s := rfl
@[simp] theorem streamBit_setDest (m : Cells 16) (p' : Nat) : streamBit (setDest m s) p' = streamBit s p' := rfl
@[simp] theorem streamBits_setDest (m : Cells 16) (p' n' : Nat) : streamBits (setDest m s) p' n' = streamBits s p' n' := rfl
@[simp] theorem streamEnd_setLogt (t : List Coef) : streamEnd (setLogt t s) = streamEnd s := rfl
@[simp] theorem streamBit_setLogt (t : List Coef) (p' : Nat) : streamBit (setLogt t s) p' = streamBit s p' := rfl
@[simp] theorem streamBits_setLogt (t : List Coef) (p' n' : Nat) : streamBits (setLogt t s) p' n' = streamBits s p' n' := rfl
@[simp] theorem streamEnd_setInbox (q : List Request) : streamEnd (setInbox q s) = streamEnd s := rfl
@[simp] theorem streamBit_setInbox (q : List Request) (p' : Nat) : streamBit (setInbox q s) p' = streamBit s p' := rfl
@[simp] theorem streamBits_setInbox (q : List Request) (p' n' : Nat) : streamBits (setInbox q s) p' n' = streamBits s p' n' := rfl
@[simp] theorem streamEnd_setResult (r : Result) : streamEnd (setResult r s) = streamEnd s := rfl
@[simp] theorem streamBit_setResult (r : Result) (p' : Nat) : streamBit (setResult r s) p' = streamBit s p' := rfl
@[simp] theorem streamBits_setResult (r : Result) (p' n' : Nat) : streamBits (setResult r s) p' n' = streamBits s p' n' := rfl
@[simp] theorem streamEnd_setChannel (c : Nat) (ch : Channel) : streamEnd (setChannel c ch s) = streamEnd s := rfl
@[simp] theorem streamBit_setChannel (c : Nat) (ch : Channel) (p' : Nat) : streamBit (setChannel c ch s) p' = streamBit s p' := rfl
@[simp] theorem streamBits_setChannel (c : Nat) (ch : Channel) (p' n' : Nat) : streamBits (setChannel c ch s) p' n' = streamBits s p' n' := rfl
@[simp] theorem streamEnd_setLevel (c l : Nat) (lev : Level) : streamEnd (setLevel c l lev s) = streamEnd s := rfl
@[simp] theorem streamBit_setLevel (c l : Nat) (lev : Level) (p' : Nat) : streamBit (setLevel c l lev s) p' = streamBit s p' := rfl
@[simp] theorem streamBits_setLevel (c l : Nat) (lev : Level) (p' n' : Nat) : streamBits (setLevel c l lev s) p' n' = streamBits s p' n' := rfl
@[simp] theorem streamEnd_setPrescale (c l : Nat) (p : BitVec 4) : streamEnd (setPrescale c l p s) = streamEnd s := rfl
@[simp] theorem streamBit_setPrescale (c l : Nat) (p : BitVec 4) (p' : Nat) : streamBit (setPrescale c l p s) p' = streamBit s p' := rfl
@[simp] theorem streamBits_setPrescale (c l : Nat) (p : BitVec 4) (p' n' : Nat) : streamBits (setPrescale c l p s) p' n' = streamBits s p' n' := rfl

end Sys2Proof.Machine
end

