-- ==== Sys2Proof/Laws/Ops.lean ====
section
/-! SUPPORT. The shared operations: what each primitive answers (equations), what an operation that answers can have
done (inversions), and one packaged induction for properties every operation keeps (`Keeps`). -/

namespace Sys2Proof.Machine

variable {α β : Type}

/-! ## Primitives -/

@[simp] theorem op_pure (a : α) (s : State) : (pure a : Op α) s = .ok a s := rfl
@[simp] theorem op_get (s : State) : (get : Op State) s = .ok s s := rfl
@[simp] theorem op_set (t s : State) : (set t : Op PUnit) s = .ok ⟨⟩ t := rfl
@[simp] theorem op_modify (f : State → State) (s : State) : (modify f : Op PUnit) s = .ok ⟨⟩ (f s) := rfl
@[simp] theorem op_raise (c : Cause) (info : Nat) (s : State) :
    (raise c info : Op α) s = .error .raised (takeError c info s) := rfl

theorem op_bind (x : Op α) (f : α → Op β) (s : State) :
    (x >>= f) s = match x s with
      | .ok a s' => f a s'
      | .error e s' => .error e s' := by
  show EStateM.bind x f s = _
  unfold EStateM.bind
  cases x s <;> rfl

theorem op_bind_of_ok {x : Op α} {f : α → Op β} {s s' : State} {a : α} (h : x s = .ok a s') :
    (x >>= f) s = f a s' := by rw [op_bind, h]

theorem op_bind_of_error {x : Op α} {f : α → Op β} {s s' : State} {e : Stop} (h : x s = .error e s') :
    (x >>= f) s = .error e s' := by rw [op_bind, h]

/-- An operation in two parts that answers: both parts answered. -/
theorem op_bind_ok {x : Op α} {f : α → Op β} {s t : State} {b : β} (h : (x >>= f) s = .ok b t) :
    ∃ a s', x s = .ok a s' ∧ f a s' = .ok b t := by
  rw [op_bind] at h
  split at h
  · exact ⟨_, _, by assumption, h⟩
  · cases h

/-- An operation in two parts that stops: the first stopped, or the first answered and the second stopped. -/
theorem op_bind_error {x : Op α} {f : α → Op β} {s t : State} {e : Stop} (h : (x >>= f) s = .error e t) :
    x s = .error e t ∨ ∃ a s', x s = .ok a s' ∧ f a s' = .error e t := by
  rw [op_bind] at h
  split at h
  · exact .inr ⟨_, _, by assumption, h⟩
  · rename_i hx
    cases h
    exact .inl hx

theorem failIf_apply (p : Prop) [Decidable p] (c : Cause) (info : Nat) (s : State) :
    failIf p c info s = if p then .error .raised (takeError c info s) else .ok () s := by
  unfold failIf
  split <;> rfl

@[simp] theorem failIf_pos {p : Prop} [Decidable p] (h : p) (c : Cause) (info : Nat) (s : State) :
    failIf p c info s = .error .raised (takeError c info s) := by rw [failIf_apply, if_pos h]

@[simp] theorem failIf_neg {p : Prop} [Decidable p] (h : ¬p) (c : Cause) (info : Nat) (s : State) :
    failIf p c info s = .ok () s := by rw [failIf_apply, if_neg h]

/-- A check that passed: its condition was false and nothing changed. -/
theorem failIf_ok {p : Prop} [Decidable p] {c : Cause} {info : Nat} {s t : State} {u : Unit}
    (h : failIf p c info s = .ok u t) : ¬p ∧ t = s := by
  rw [failIf_apply] at h
  split at h
  · cases h
  · cases h
    exact ⟨by assumption, rfl⟩

/-! ## Taking an error -/

theorem takeError_faulted {c : Cause} {info : Nat} {s : State} (h : s.sess = .faulted) : takeError c info s = s :=
  if_pos h

theorem takeError_eq {c : Cause} {info : Nat} {s : State} (h : s.sess ≠ .faulted) :
    takeError c info s =
      { s with err := ⟨causeKind c, causeCode c, BitVec.ofNat 32 info⟩, sess := .faulted } := if_neg h

/-- Taking an error changes nothing but ERR and SESS. -/
theorem takeError_rest (c : Cause) (info : Nat) (s : State) :
    ∃ e x, takeError c info s = { s with err := e, sess := x } := by
  unfold takeError
  split
  · exact ⟨s.err, s.sess, rfl⟩
  · exact ⟨_, _, rfl⟩

@[simp] theorem takeError_sess (c : Cause) (info : Nat) (s : State) : (takeError c info s).sess = .faulted := by
  unfold takeError
  split
  · assumption
  · rfl

/-! ## Instructions -/

/-- An instruction answers: its operation completed, or raised an error. -/
theorem finish_next {op : Op Result} {s t : State} (h : finish op s = .next t) :
    (∃ r s', op s = .ok r s' ∧ t = setResult r s') ∨ (∃ s', op s = .error .raised s' ∧ t = setResult .none s') := by
  unfold finish at h
  split at h
  · cases h
    exact .inl ⟨_, _, by assumption, rfl⟩
  · cases h
    exact .inr ⟨_, by assumption, rfl⟩

/-- Every instruction that is an operation answers a next state (`70_reset_and_hazards.md` R260). -/
theorem finish_answers (op : Op Result) (s : State) : ∃ t, finish op s = .next t := by
  unfold finish
  split <;> exact ⟨_, rfl⟩

theorem finish_of_ok {op : Op Result} {s s' : State} {r : Result} (h : op s = .ok r s') :
    finish op s = .next (setResult r s') := by
  unfold finish
  rw [h]
  rfl

theorem finish_of_raised {op : Op Result} {s s' : State} (h : op s = .error .raised s') :
    finish op s = .next (setResult .none s') := by
  unfold finish
  rw [h]
  rfl

theorem finishUnit_of_ok {op : Op Unit} {s s' : State} (h : op s = .ok () s') :
    finishUnit op s = .next (setResult .none s') := finish_of_ok (by rw [op_bind_of_ok h]; rfl)

theorem finishUnit_of_raised {op : Op Unit} {s s' : State} (h : op s = .error .raised s') :
    finishUnit op s = .next (setResult .none s') := finish_of_raised (op_bind_of_error h)

/-! ## What every operation keeps -/

/-- `op` keeps `I`: from a state with `I` it ends, answering or stopping, in a state with `I`. -/
def Keeps (I : State → Prop) (op : Op α) : Prop :=
  ∀ s, I s → match op s with
    | .ok _ s' => I s'
    | .error _ s' => I s'

theorem Keeps.ok {I : State → Prop} {op : Op α} (h : Keeps I op) {s t : State} {a : α} (hs : I s)
    (ho : op s = .ok a t) : I t := by
  have := h s hs
  rwa [ho] at this

theorem Keeps.error {I : State → Prop} {op : Op α} (h : Keeps I op) {s t : State} {e : Stop} (hs : I s)
    (ho : op s = .error e t) : I t := by
  have := h s hs
  rwa [ho] at this

theorem keeps_pure {I : State → Prop} (a : α) : Keeps I (pure a) := fun _ h => h
theorem keeps_get {I : State → Prop} : Keeps I (get : Op State) := fun _ h => h

theorem keeps_modify {I : State → Prop} {f : State → State} (h : ∀ s, I s → I (f s)) :
    Keeps I (modify f : Op PUnit) := fun s hs => h s hs

theorem keeps_bind {I : State → Prop} {x : Op α} {f : α → Op β} (hx : Keeps I x) (hf : ∀ a, Keeps I (f a)) :
    Keeps I (x >>= f) := by
  intro s hs
  rw [op_bind]
  cases hxs : x s with
  | ok a s' => exact hf a s' (hx.ok hs hxs)
  | error e s' => exact hx.error hs hxs

theorem keeps_raise {I : State → Prop} {c : Cause} {info : Nat} (h : ∀ s, I s → I (takeError c info s)) :
    Keeps I (raise c info : Op α) := fun s hs => h s hs

theorem keeps_failIf {I : State → Prop} {p : Prop} [Decidable p] {c : Cause} {info : Nat}
    (h : ∀ s, I s → I (takeError c info s)) : Keeps I (failIf p c info) := by
  unfold failIf
  split
  · exact keeps_raise h
  · exact keeps_pure _

theorem keeps_forFrom {I : State → Prop} {f : Nat → Op Unit} (hf : ∀ i, Keeps I (f i)) (start n : Nat) :
    Keeps I (forFrom start n f) := by
  induction n generalizing start with
  | zero => exact keeps_pure _
  | succ n ih => exact keeps_bind (hf start) fun _ => ih (start + 1)

theorem keeps_mapFrom {I : State → Prop} {f : Nat → Op α} (hf : ∀ i, Keeps I (f i)) (start n : Nat) :
    Keeps I (mapFrom start n f) := by
  induction n generalizing start with
  | zero => exact keeps_pure _
  | succ n ih => exact keeps_bind (hf start) fun _ => keeps_bind (ih (start + 1)) fun _ => keeps_pure _

/-- An instruction whose operation keeps `I` answers with `I`, if the result ports do not matter to `I`. -/
theorem finish_keeps {I : State → Prop} {op : Op Result} (h : Keeps I op) (hr : ∀ s r, I s → I (setResult r s))
    {s t : State} (hs : I s) (ho : finish op s = .next t) : I t := by
  rcases finish_next ho with ⟨r, s', hop, rfl⟩ | ⟨s', hop, rfl⟩
  · exact hr _ _ (h.ok hs hop)
  · exact hr _ _ (h.error hs hop)

/-! ## The bit reader -/

/-- Consuming bits that are there moves POS and nothing else. -/
theorem takeBits_fits {n : Nat} {s : State} (h : s.pos + n ≤ streamEnd s) :
    takeBits n s = .ok () (setPos (s.pos + n) s) := by
  simp only [takeBits, op_bind_of_ok (op_get s), op_bind_of_ok (failIf_neg (Nat.not_lt.mpr h) _ _ s), op_modify]

/-- Consuming bits that are not there raises ReaderOverrun and consumes none. -/
theorem takeBits_overrun {n : Nat} {s : State} (h : s.pos + n > streamEnd s) :
    takeBits n s = .error .raised (takeError .readerOverrun s.pos s) := by
  simp only [takeBits, op_bind_of_ok (op_get s), op_bind_of_error (failIf_pos h _ _ s)]

theorem bitPeek_fits {n : Nat} {s : State} (hn : n ≤ 32) (h : s.pos + n ≤ streamEnd s) :
    bitPeek n s = .ok (bitsToNat (streamBits s s.pos n)) s := by
  simp only [bitPeek, op_bind_of_ok (op_get s),
    op_bind_of_ok (failIf_neg (show ¬n > Config.maxReadBits from Nat.not_lt.mpr hn) _ _ s),
    op_bind_of_ok (failIf_neg (Nat.not_lt.mpr h) _ _ s), op_pure]

/-- A read that fits gives the bits at POS and moves POS. -/
theorem bitRead_fits {n : Nat} {s : State} (hn : n ≤ 32) (h : s.pos + n ≤ streamEnd s) :
    bitRead n s = .ok (bitsToNat (streamBits s s.pos n)) (setPos (s.pos + n) s) := by
  rw [bitRead, op_bind_of_ok (bitPeek_fits hn h)]
  rfl

theorem bitRead_overrun {n : Nat} {s : State} (hn : n ≤ 32) (h : s.pos + n > streamEnd s) :
    bitRead n s = .error .raised (takeError .readerOverrun s.pos s) := by
  rw [bitRead]
  refine op_bind_of_error ?_
  simp only [bitPeek, op_bind_of_ok (op_get s),
    op_bind_of_ok (failIf_neg (show ¬n > Config.maxReadBits from Nat.not_lt.mpr hn) _ _ s),
    op_bind_of_error (failIf_pos h _ _ s)]

/-- A read that answers: it fitted. -/
theorem bitRead_ok {n v : Nat} {s t : State} (h : bitRead n s = .ok v t) :
    n ≤ 32 ∧ s.pos + n ≤ streamEnd s ∧ v = bitsToNat (streamBits s s.pos n) ∧ t = setPos (s.pos + n) s := by
  obtain ⟨a, s1, h1, h2⟩ := op_bind_ok h
  obtain ⟨_, s2, h3, h4⟩ := op_bind_ok h1
  cases h3
  obtain ⟨_, s3, h5, h6⟩ := op_bind_ok h4
  obtain ⟨hn, rfl⟩ := failIf_ok h5
  obtain ⟨_, s4, h7, h8⟩ := op_bind_ok h6
  obtain ⟨hp, rfl⟩ := failIf_ok h7
  cases h8
  cases h2
  exact ⟨Nat.not_lt.mp hn, Nat.not_lt.mp hp, rfl, rfl⟩

/-! ## Planes -/

theorem liveBuffer_eq_some {s : State} {p : Plane} {id : Nat} {b : Buffer} :
    liveBuffer s p = some (id, b) ↔ p.epoch = s.epoch ∧ p.buf = some id ∧ bufFind s.bufs id = some b := by
  unfold liveBuffer
  by_cases he : p.epoch = s.epoch
  · cases hp : p.buf with
    | none => simp [he]
    | some i =>
      simp only [he, if_true, Option.bind_some, Option.map_eq_some_iff, Prod.mk.injEq, Option.some.injEq, true_and]
      constructor
      · rintro ⟨a, ha, rfl, rfl⟩
        exact ⟨rfl, ha⟩
      · rintro ⟨rfl, hb⟩
        exact ⟨b, hb, rfl, rfl⟩
  · simp [he]

theorem checkDescriptor_found {p : Plane} {s : State} {id : Nat} {b : Buffer}
    (h : liveBuffer s p = some (id, b)) : checkDescriptor p s = .ok (id, b) s := by
  simp only [checkDescriptor, op_bind_of_ok (op_get s), h, op_pure]

/-- A descriptor check that passed: the descriptor is live, nothing changed. -/
theorem checkDescriptor_ok {p : Plane} {s t : State} {e : Nat × Buffer} (h : checkDescriptor p s = .ok e t) :
    liveBuffer s p = some e ∧ t = s := by
  rw [checkDescriptor, op_bind_of_ok (op_get s)] at h
  cases hl : liveBuffer s p with
  | none =>
    rw [hl] at h
    cases h
  | some e' =>
    rw [hl] at h
    cases h
    exact ⟨rfl, rfl⟩

/-- A dead descriptor raises DanglingView. -/
theorem checkDescriptor_dead {p : Plane} {s : State} (h : liveBuffer s p = none) :
    checkDescriptor p s = .error .raised (takeError .danglingView 0 s) := by
  simp only [checkDescriptor, op_bind_of_ok (op_get s), h, op_raise]

theorem checkAccess_found {p : Plane} {s : State} {id x y : Nat} {b : Buffer} (h : liveBuffer s p = some (id, b))
    (hx : x < p.width.toNat) (hy : y < p.height.toNat) (ha : planeAddr p x y < b.len) :
    checkAccess p x y s = .ok (id, b) s := by
  rw [checkAccess, op_bind_of_ok (checkDescriptor_found h),
    op_bind_of_ok (failIf_neg (by simp only [ge_iff_le]; omega) _ _ s), op_pure]

/-- An access check that passed: the descriptor is live, (x, y) is inside the plane and its buffer, nothing
changed. -/
theorem checkAccess_ok {p : Plane} {s t : State} {x y : Nat} {e : Nat × Buffer} (h : checkAccess p x y s = .ok e t) :
    liveBuffer s p = some e ∧ x < p.width.toNat ∧ y < p.height.toNat ∧ planeAddr p x y < e.2.len ∧ t = s := by
  obtain ⟨a, s1, h1, h2⟩ := op_bind_ok h
  obtain ⟨hl, rfl⟩ := checkDescriptor_ok h1
  obtain ⟨_, s2, h3, h4⟩ := op_bind_ok h2
  obtain ⟨hn, rfl⟩ := failIf_ok h3
  cases h4
  exact ⟨hl, by omega, by omega, by omega, rfl⟩

theorem planeRead_found {p : Plane} {s : State} {id x y : Nat} {b : Buffer} (h : liveBuffer s p = some (id, b))
    (hx : x < p.width.toNat) (hy : y < p.height.toNat) (ha : planeAddr p x y < b.len) :
    planeRead p x y s = .ok (cellRead b.cells (planeAddr p x y)) s := by
  rw [planeRead, op_bind_of_ok (checkAccess_found h hx hy ha), op_pure]

/-- A plane read that answers: it read the element at its address and changed nothing. -/
theorem planeRead_ok {p : Plane} {s t : State} {x y : Nat} {v : Coef} (h : planeRead p x y s = .ok v t) :
    ∃ id b, liveBuffer s p = some (id, b) ∧ x < p.width.toNat ∧ y < p.height.toNat ∧
      planeAddr p x y < b.len ∧ v = cellRead b.cells (planeAddr p x y) ∧ t = s := by
  obtain ⟨e, s1, h1, h2⟩ := op_bind_ok h
  obtain ⟨hl, hx, hy, ha, rfl⟩ := checkAccess_ok h1
  cases h2
  exact ⟨_, _, hl, hx, hy, ha, rfl, rfl⟩

theorem planeWrite_found {p : Plane} {s : State} {id x y : Nat} {b : Buffer} {v : Coef}
    (h : liveBuffer s p = some (id, b)) (hx : x < p.width.toNat) (hy : y < p.height.toNat)
    (ha : planeAddr p x y < b.len) :
    planeWrite p x y v s =
      .ok () (setBufs (bufPut s.bufs id ⟨b.len, cellWrite b.cells (planeAddr p x y) v⟩) s) := by
  rw [planeWrite, op_bind_of_ok (checkAccess_found h hx hy ha), op_modify]

/-- A plane write that answers: it changed the one element at its address. -/
theorem planeWrite_ok {p : Plane} {s t : State} {x y : Nat} {v : Coef} (h : planeWrite p x y v s = .ok () t) :
    ∃ id b, liveBuffer s p = some (id, b) ∧ x < p.width.toNat ∧ y < p.height.toNat ∧
      planeAddr p x y < b.len ∧
      t = setBufs (bufPut s.bufs id ⟨b.len, cellWrite b.cells (planeAddr p x y) v⟩) s := by
  obtain ⟨e, s1, h1, h2⟩ := op_bind_ok h
  obtain ⟨hl, hx, hy, ha, rfl⟩ := checkAccess_ok h1
  cases h2
  exact ⟨_, _, hl, hx, hy, ha, rfl⟩

/-! ## The destination -/

/-- A destination write always answers. Either an image is bound and holds the sample, which is inside the region and
the one thing changed, or nothing changed. -/
theorem destWrite_cases (c X Y : Nat) (v : Int) (s : State) :
    (∃ b, s.binding = some b ∧ inRegion s (destX s c X) (destY s c Y) ∧ destX s c X < b.dest.w.toNat ∧
      destY s c Y < b.dest.h.toNat ∧
      destWrite c X Y v s =
        .ok () (setDest (cellWrite s.dest (destKey b.dest.image (destX s c X) (destY s c Y)) (sampleOf v)) s)) ∨
    (¬destWritable s (destX s c X) (destY s c Y) ∧ destWrite c X Y v s = .ok () s) := by
  rw [destWrite, op_modify]
  by_cases hc : destWritable s (destX s c X) (destY s c Y)
  · rw [if_pos hc]
    cases hb : s.binding with
    | none => simp [destWritable, boundDest, hb] at hc
    | some b =>
      simp only [destWritable, boundDest, hb, Option.map_some, Option.getD_some] at hc ⊢
      exact .inl ⟨b, rfl, hc.1, hc.2.1, hc.2.2, rfl⟩
  · rw [if_neg hc]
    exact .inr ⟨hc, rfl⟩

/-! ## Levels -/

theorem channelAt_setChannel_same {c : Nat} (hc : c < 4) (ch : Channel) (s : State) :
    channelAt (setChannel c ch s) c = ch := by
  simp [channelAt, setChannel, hc]

theorem channelAt_setChannel_ne {c c' : Nat} (h : c' ≠ c) (ch : Channel) (s : State) :
    channelAt (setChannel c ch s) c' = channelAt s c' := by
  simp [channelAt, setChannel, Ne.symm h]

/-- A level written is read back. -/
theorem levelAt_setLevel_same {c l : Nat} (hc : c < 4) (hl : l < 3) (lev : Level) (s : State) :
    levelAt (setLevel c l lev s) c l = lev := by
  simp [levelAt, setLevel, channelAt_setChannel_same hc, hl]

/-- Writing a level leaves every other level alone. -/
theorem levelAt_setLevel_ne {c l c' l' : Nat} (h : c' ≠ c ∨ l' ≠ l) (lev : Level) (s : State) :
    levelAt (setLevel c l lev s) c' l' = levelAt s c' l' := by
  by_cases hc : c' = c
  · subst hc
    have hl : l ≠ l' := by rintro rfl; simp at h
    by_cases h4 : c' < 4
    · simp [levelAt, setLevel, channelAt_setChannel_same h4, hl]
    · simp [levelAt, setLevel, channelAt, setChannel, Vector.getElem?_eq_none (by omega : 4 ≤ c')]
  · simp [levelAt, setLevel, channelAt_setChannel_ne hc]

/-- Writing a level leaves every prescale register alone. -/
@[simp] theorem prescaleAt_setLevel (c l c' l' : Nat) (lev : Level) (s : State) :
    prescaleAt (setLevel c l lev s) c' l' = prescaleAt s c' l' := by
  by_cases hc : c' = c
  · subst hc
    by_cases h4 : c' < 4
    · simp [prescaleAt, setLevel, channelAt_setChannel_same h4]
    · simp [prescaleAt, setLevel, channelAt, setChannel, Vector.getElem?_eq_none (by omega : 4 ≤ c')]
  · simp [prescaleAt, setLevel, channelAt_setChannel_ne hc]

/-- Writing a prescale register leaves every level alone. -/
@[simp] theorem levelAt_setPrescale (c l c' l' : Nat) (p : BitVec 4) (s : State) :
    levelAt (setPrescale c l p s) c' l' = levelAt s c' l' := by
  by_cases hc : c' = c
  · subst hc
    by_cases h4 : c' < 4
    · simp [levelAt, setPrescale, channelAt_setChannel_same h4]
    · simp [levelAt, setPrescale, channelAt, setChannel, Vector.getElem?_eq_none (by omega : 4 ≤ c')]
  · simp [levelAt, setPrescale, channelAt_setChannel_ne hc]

theorem prescaleAt_setPrescale_same {c l : Nat} (hc : c < 4) (hl : l < 3) (p : BitVec 4) (s : State) :
    prescaleAt (setPrescale c l p s) c l = p := by
  simp [prescaleAt, setPrescale, channelAt_setChannel_same hc, hl]

/-- A level fetched: its index is legal, nothing changed. -/
theorem fetchLevel_ok {lv : LevelRef} {lev : Level} {s t : State} (h : fetchLevel lv s = .ok lev t) :
    lv.c.toNat ≤ 3 ∧ lv.l.toNat ≤ 2 ∧ lev = levelAt s lv.c.toNat lv.l.toNat ∧ t = s := by
  obtain ⟨_, s1, h1, h2⟩ := op_bind_ok h
  obtain ⟨hn, rfl⟩ := failIf_ok h1
  cases h2
  exact ⟨by omega, by omega, rfl, rfl⟩

theorem fetchLevel_legal {lv : LevelRef} {s : State} (hc : lv.c.toNat ≤ 3) (hl : lv.l.toNat ≤ 2) :
    fetchLevel lv s = .ok (levelAt s lv.c.toNat lv.l.toNat) s := by
  rw [fetchLevel, checkLevel, op_bind_of_ok (failIf_neg (by omega) _ _ s)]
  rfl

/-- A level fetched for one of its bands: it is initialized and declares the band, nothing changed. -/
theorem fetchBandLevel_ok {lv : LevelRef} {b : Nat} {lev : Level} {s t : State}
    (h : fetchBandLevel lv b s = .ok lev t) :
    lv.c.toNat ≤ 3 ∧ lv.l.toNat ≤ 2 ∧ lev = levelAt s lv.c.toNat lv.l.toNat ∧ lev.init = true ∧
      b < lev.numBands.toNat ∧ t = s := by
  obtain ⟨a, s1, h1, h2⟩ := op_bind_ok h
  obtain ⟨hc, hl, ha, rfl⟩ := fetchLevel_ok h1
  obtain ⟨_, s2, h3, h4⟩ := op_bind_ok h2
  obtain ⟨hi, rfl⟩ := failIf_ok h3
  obtain ⟨_, s3, h5, h6⟩ := op_bind_ok h4
  obtain ⟨hb, rfl⟩ := failIf_ok h5
  cases h6
  exact ⟨hc, hl, ha, by simpa using hi, by omega, rfl⟩

end Sys2Proof.Machine
end

