-- ==== Sys2Proof/Laws/Keeps.lean ====
section
/-! SUPPORT. A property that every primitive update keeps is kept by every operation and by every instruction that
uses only those updates: one packaged induction over the operations of the machine. -/

namespace Sys2Proof.Machine

/-- `I` is kept by every update a unit operation or the sequencer makes. -/
structure Stable (I : State → Prop) : Prop where
  takeError : ∀ c info s, I s → I (takeError c info s)
  setPos : ∀ n s, I s → I (setPos n s)
  setSeq : ∀ x s, I s → I (setSeq x s)
  setSeqIdx : ∀ i s, I s → I (setSeqIdx i s)
  setHdr : ∀ h s, I s → I (setHdr h s)
  setQuant : ∀ i q s, I s → I (setQuant i q s)
  setBufs : ∀ m s, I s → I (setBufs m s)
  setNextBuf : ∀ n s, I s → I (setNextBuf n s)
  setDest : ∀ m s, I s → I (setDest m s)
  setLogt : ∀ t s, I s → I (setLogt t s)
  setLevel : ∀ c l lev s, I s → I (setLevel c l lev s)

variable {I : State → Prop}

theorem Stable.raise {α : Type} (h : Stable I) (c : Cause) (info : Nat) : Keeps I (raise c info : Op α) :=
  keeps_raise fun s => h.takeError c info s

theorem Stable.failIf (h : Stable I) (p : Prop) [Decidable p] (c : Cause) (info : Nat) :
    Keeps I (failIf p c info) := keeps_failIf fun s => h.takeError c info s

theorem Stable.takeBits (h : Stable I) (n : Nat) : Keeps I (takeBits n) :=
  keeps_bind keeps_get fun _ => keeps_bind (h.failIf _ _ _) fun _ => keeps_modify fun s => h.setPos _ s

theorem Stable.bitPeek (h : Stable I) (n : Nat) : Keeps I (bitPeek n) :=
  keeps_bind keeps_get fun _ => keeps_bind (h.failIf _ _ _) fun _ => keeps_bind (h.failIf _ _ _) fun _ => keeps_pure _

theorem Stable.bitRead (h : Stable I) (n : Nat) : Keeps I (bitRead n) :=
  keeps_bind (h.bitPeek n) fun _ => keeps_bind (keeps_modify fun s => h.setPos _ s) fun _ => keeps_pure _

theorem Stable.readZeros (h : Stable I) (left z : Nat) : Keeps I (readZeros left z) := by
  induction left generalizing z with
  | zero =>
    refine keeps_bind (h.bitRead 1) fun b => ?_
    by_cases hb : b = 0
    · simp only [if_pos hb]
      exact keeps_bind keeps_get fun _ => h.raise _ _
    · simp only [if_neg hb]
      exact keeps_pure _
  | succ left ih =>
    refine keeps_bind (h.bitRead 1) fun b => ?_
    by_cases hb : b = 0
    · simp only [if_pos hb]
      exact ih (z + 1)
    · simp only [if_neg hb]
      exact keeps_pure _

theorem Stable.readCode (h : Stable I) : Keeps I readCode :=
  keeps_bind (h.readZeros _ _) fun _ => keeps_bind (h.bitRead _) fun _ => keeps_pure _

theorem Stable.readToken (h : Stable I) : Keeps I readToken := by
  refine keeps_bind h.readCode fun run => keeps_bind h.readCode fun m => ?_
  by_cases hm : m = 0
  · simp only [if_pos hm]
    exact keeps_pure _
  · simp only [if_neg hm]
    exact keeps_bind (h.bitRead 1) fun _ => keeps_pure _

theorem Stable.ensureTable (h : Stable I) : Keeps I ensureTable := by
  refine keeps_bind keeps_get fun s => ?_
  split
  · exact keeps_pure _
  · exact keeps_modify fun s => h.setLogt _ s

theorem Stable.logDecode (h : Stable I) (v : Int) : Keeps I (logDecode v) :=
  keeps_bind h.ensureTable fun _ =>
    keeps_bind (h.failIf (v.natAbs > 4095) _ _) fun _ => keeps_bind keeps_get fun _ => keeps_pure _

theorem Stable.checkDescriptor (h : Stable I) (p : Plane) : Keeps I (checkDescriptor p) := by
  refine keeps_bind keeps_get fun s => ?_
  cases liveBuffer s p with
  | none => exact h.raise _ _
  | some e => exact keeps_pure _

theorem Stable.checkAccess (h : Stable I) (p : Plane) (x y : Nat) : Keeps I (checkAccess p x y) :=
  keeps_bind (h.checkDescriptor p) fun e =>
    keeps_bind (h.failIf (x ≥ p.width.toNat ∨ y ≥ p.height.toNat ∨ e.2.len ≤ planeAddr p x y) _ _) fun _ =>
      keeps_pure _

theorem Stable.checkElements (h : Stable I) (p : Plane) : Keeps I (checkElements p) :=
  keeps_forFrom (fun y => keeps_forFrom (fun x => keeps_bind (h.checkAccess p x y) fun _ => keeps_pure _) _ _) _ _

theorem Stable.planeRead (h : Stable I) (p : Plane) (x y : Nat) : Keeps I (planeRead p x y) :=
  keeps_bind (h.checkAccess p x y) fun _ => keeps_pure _

theorem Stable.planeWrite (h : Stable I) (p : Plane) (x y : Nat) (v : Coef) : Keeps I (planeWrite p x y v) :=
  keeps_bind (h.checkAccess p x y) fun _ => keeps_modify fun s => h.setBufs _ s

theorem Stable.planeCreate (h : Stable I) (width height : U16) : Keeps I (planeCreate width height) :=
  keeps_bind (h.failIf _ _ _) fun _ => keeps_bind keeps_get fun _ =>
    keeps_bind (keeps_modify fun s hs => h.setNextBuf _ _ (h.setBufs _ s hs)) fun _ => keeps_pure _

theorem Stable.planeClear (h : Stable I) (p : Plane) : Keeps I (planeClear p) :=
  keeps_bind (h.checkDescriptor p) fun _ =>
    keeps_forFrom (fun y => keeps_forFrom (fun x => h.planeWrite p x y 0) _ _) _ _

theorem Stable.planeView (h : Stable I) (p : Plane) (x0 y0 w ht : U16) : Keeps I (planeView p x0 y0 w ht) :=
  keeps_bind (h.checkDescriptor p) fun _ => keeps_bind (h.failIf _ _ _) fun _ =>
    keeps_bind (h.failIf _ _ _) fun _ => keeps_pure _

theorem Stable.checkLevel (h : Stable I) (lv : LevelRef) : Keeps I (checkLevel lv) := h.failIf _ _ _

theorem Stable.fetchLevel (h : Stable I) (lv : LevelRef) : Keeps I (fetchLevel lv) :=
  keeps_bind (h.checkLevel lv) fun _ => keeps_bind keeps_get fun _ => keeps_pure _

theorem Stable.fetchBandLevel (h : Stable I) (lv : LevelRef) (b : Nat) : Keeps I (fetchBandLevel lv b) :=
  keeps_bind (h.fetchLevel lv) fun lev => keeps_bind (h.failIf (lev.init = false) _ _) fun _ =>
    keeps_bind (h.failIf (b ≥ lev.numBands.toNat) _ _) fun _ => keeps_pure _

theorem Stable.storeLevel (h : Stable I) (lv : LevelRef) (lev : Level) : Keeps I (storeLevel lv lev) :=
  keeps_modify fun s => h.setLevel _ _ _ s

theorem Stable.levelInit (h : Stable I) (lv : LevelRef) (width height : U16) (numBands : Nat) :
    Keeps I (levelInit lv width height numBands) :=
  keeps_bind (h.fetchLevel lv) fun lev => keeps_bind (h.failIf (lev.init = true) _ _) fun _ =>
    keeps_bind (h.failIf _ _ _) fun _ => keeps_bind (h.failIf _ _ _) fun _ =>
      keeps_bind (h.storeLevel _ _) fun _ =>
        keeps_bind
          (keeps_forFrom (fun _ => keeps_bind (h.planeCreate _ _) fun _ => keeps_modify fun s => h.setLevel _ _ _ s) _ _)
          fun _ => keeps_modify fun s => h.setLevel _ _ _ s

theorem Stable.dropBands (h : Stable I) (lev : Level) : Keeps I (dropBands lev) := by
  unfold Machine.dropBands
  split
  · exact keeps_modify fun s => h.setBufs _ s
  · exact keeps_pure _

theorem Stable.levelClear (h : Stable I) (lv : LevelRef) : Keeps I (levelClear lv) :=
  keeps_bind (h.fetchLevel lv) fun lev => keeps_bind (h.dropBands lev) fun _ => h.storeLevel _ _

theorem Stable.levelSetValid (h : Stable I) (lv : LevelRef) (b : Nat) : Keeps I (levelSetValid lv b) :=
  keeps_bind (h.fetchBandLevel lv b) fun _ => h.storeLevel _ _

theorem Stable.levelIsValid (h : Stable I) (lv : LevelRef) (b : Nat) : Keeps I (levelIsValid lv b) :=
  keeps_bind (h.fetchBandLevel lv b) fun _ => keeps_pure _

theorem Stable.levelAllValid (h : Stable I) (lv : LevelRef) : Keeps I (levelAllValid lv) :=
  keeps_bind (h.fetchLevel lv) fun _ => keeps_pure _

theorem Stable.levelDequant (h : Stable I) (out inp : Plane) (quant : U16) : Keeps I (levelDequant out inp quant) :=
  keeps_bind (h.checkDescriptor out) fun _ => keeps_bind (h.checkDescriptor inp) fun _ =>
    keeps_bind (h.failIf _ _ _) fun _ =>
      keeps_forFrom (fun y => keeps_forFrom
        (fun x => keeps_bind (h.planeRead inp x y) fun v => h.planeWrite out x y (scaleCoef quant v)) _ _) _ _

theorem Stable.levelBandPlane (h : Stable I) (lv : LevelRef) (b : Nat) : Keeps I (levelBandPlane lv b) :=
  keeps_bind (h.fetchBandLevel lv b) fun _ => h.planeView _ _ _ _ _

theorem Stable.bandFetch (h : Stable I) (lev : Level) (k x y : Nat) : Keeps I (bandFetch lev k x y) := by
  unfold Machine.bandFetch
  split
  · exact keeps_bind (h.planeRead _ _ _) fun _ => keeps_pure _
  · exact keeps_pure _

theorem Stable.bandLine (h : Stable I) (lev : Level) (k y : Nat) : Keeps I (bandLine lev k y) :=
  keeps_mapFrom (fun x => h.bandFetch lev k x y) _ _

theorem Stable.synth2D (h : Stable I) (lev : Level) : Keeps I (synth2D lev) :=
  keeps_bind
    (keeps_mapFrom (fun y => keeps_bind (h.bandLine lev 0 y) fun _ => keeps_bind (h.bandLine lev 1 y) fun _ =>
      keeps_bind (h.bandLine lev 2 y) fun _ => keeps_bind (h.bandLine lev 3 y) fun _ => keeps_pure _) _ _)
    fun _ => keeps_pure _

theorem Stable.destWrite (h : Stable I) (c X Y : Nat) (v : Int) : Keeps I (destWrite c X Y v) := by
  refine keeps_modify fun s hs => ?_
  split
  · exact h.setDest _ s hs
  · exact hs

theorem Stable.checkSink (h : Stable I) (dest : Sink) (w2 h2 : Nat) (clamp : Bool) :
    Keeps I (checkSink dest w2 h2 clamp) := by
  cases dest with
  | plane p =>
    exact keeps_bind (h.checkDescriptor p) fun _ => keeps_bind (h.failIf _ _ _) fun _ => h.checkElements p
  | image c =>
    exact keeps_bind (h.failIf _ _ _) fun _ => keeps_bind keeps_get fun s =>
      h.failIf (w2 ≠ channelWidth s ∨ h2 ≠ channelHeight s) _ _

theorem Stable.sinkWrite (h : Stable I) (dest : Sink) (X Y : Nat) (v : Int) : Keeps I (sinkWrite dest X Y v) := by
  cases dest with
  | plane p => exact h.planeWrite _ _ _ _
  | image c => exact h.destWrite _ _ _ _

theorem Stable.levelRecon (h : Stable I) (lv : LevelRef) (dest : Sink) (prescale : BitVec 4) (clamp : Bool) :
    Keeps I (levelRecon lv dest prescale clamp) :=
  keeps_bind (h.fetchLevel lv) fun lev => keeps_bind (h.failIf (allValid lev = false) _ _) fun _ =>
    keeps_bind (h.checkSink _ _ _ _) fun _ => keeps_bind (h.synth2D lev) fun _ => keeps_bind keeps_get fun _ =>
      keeps_forFrom (fun _ => keeps_forFrom (fun _ => h.sinkWrite _ _ _ _) _ _) _ _

theorem Stable.updateHdr (h : Stable I) (f : HdrFields → HdrFields) : Keeps I (updateHdr f) :=
  keeps_modify fun s => h.setHdr _ s

theorem Stable.readField (h : Stable I) (f : HdrField) : Keeps I (readField f) := h.bitRead _

theorem Stable.wordField (h : Stable I) (w : HeaderWord) (f : HdrField) : Keeps I (wordField w f) :=
  keeps_bind (h.takeBits _) fun _ => keeps_pure _

theorem Stable.parseHeader (h : Stable I) {rd : HdrField → Op Nat} (hrd : ∀ f, Keeps I (rd f)) :
    Keeps I (parseHeader rd) := by
  unfold Machine.parseHeader
  repeat
    first
    | refine keeps_bind (hrd _) fun _ => ?_
    | refine keeps_bind (h.updateHdr _) fun _ => ?_
    | refine keeps_bind (h.failIf _ _ _) fun _ => ?_
    | refine keeps_bind keeps_get fun s => keeps_bind (h.failIf _ _ _) fun _ => ?_
    | refine keeps_bind (keeps_forFrom (fun _ => keeps_bind (hrd _) fun _ => h.updateHdr _) _ _) fun _ => ?_
  exact keeps_forFrom (fun _ => keeps_bind (hrd _) fun _ => keeps_modify fun s => h.setQuant _ _ s) _ _

theorem Stable.placeToken (h : Stable I) (p : Plane) (n idx : Nat) : Keeps I (placeToken p n idx) :=
  keeps_bind h.readToken fun t => keeps_bind (h.failIf (t.1 + 1 > n - idx) _ _) fun _ =>
    keeps_bind (keeps_forFrom (fun _ => h.planeWrite _ _ _ _) _ _) fun _ =>
      keeps_bind (h.logDecode t.2) fun _ => keeps_bind (h.planeWrite _ _ _ _) fun _ =>
        keeps_bind (keeps_modify fun s => h.setSeqIdx _ s) fun _ => keeps_pure _

theorem Stable.fillFrom (h : Stable I) (p : Plane) (n rounds idx : Nat) : Keeps I (fillFrom p n rounds idx) := by
  induction rounds generalizing idx with
  | zero => exact keeps_pure _
  | succ rounds ih =>
    unfold Machine.fillFrom
    split
    · exact keeps_bind (h.placeToken p n idx) fun idx' => ih idx'
    · exact keeps_pure _

theorem Stable.fillBand (h : Stable I) (lv : LevelRef) (b : Nat) : Keeps I (fillBand lv b) :=
  keeps_bind (h.levelBandPlane lv b) fun _ => keeps_bind (h.fillFrom _ _ _ _) fun _ => h.levelSetValid lv b

theorem Stable.moveSeq (h : Stable I) (phase : Phase) (c l b : Nat) : Keeps I (moveSeq phase c l b) :=
  keeps_modify fun s => h.setSeq _ s

theorem Stable.ensureLevel (h : Stable I) (c l w ht : Nat) : Keeps I (ensureLevel c l w ht) := by
  refine keeps_bind keeps_get fun s => ?_
  split
  · exact keeps_pure _
  · exact h.levelInit _ _ _ _

theorem Stable.fillCodedBand (h : Stable I) (c l numLevels b : Nat) : Keeps I (fillCodedBand c l numLevels b) :=
  keeps_bind (h.moveSeq _ _ _ _) fun _ => keeps_bind (keeps_modify fun s => h.setLevel _ _ _ s) fun _ =>
    h.fillBand _ _

theorem Stable.dequantBand (h : Stable I) (c l b : Nat) : Keeps I (dequantBand c l b) :=
  keeps_bind (h.levelBandPlane _ _) fun _ => keeps_bind (h.moveSeq _ _ _ _) fun _ => keeps_bind keeps_get fun _ =>
    h.levelDequant _ _ _

theorem Stable.decodeLevel (h : Stable I) (c numLevels l : Nat) : Keeps I (decodeLevel c numLevels l) := by
  refine keeps_bind keeps_get fun s => keeps_bind (h.ensureLevel _ _ _ _) fun _ =>
    keeps_bind (keeps_forFrom (fun b => h.fillCodedBand c l numLevels b) _ _) fun _ =>
      keeps_bind (keeps_forFrom (fun b => h.dequantBand c l b) _ _) fun _ => ?_
  by_cases hl : l = 0
  · simp only [if_pos hl]
    exact keeps_bind (h.moveSeq _ _ _ _) fun _ => h.levelRecon _ _ _ _
  · simp only [if_neg hl]
    exact keeps_bind (h.ensureLevel _ _ _ _) fun _ => keeps_bind (h.levelBandPlane _ _) fun _ =>
      keeps_bind (h.moveSeq _ _ _ _) fun _ => keeps_bind (h.levelRecon _ _ _ _) fun _ => h.levelSetValid _ _

theorem Stable.decodeLevels (h : Stable I) (c numLevels k : Nat) : Keeps I (decodeLevels c numLevels k) := by
  induction k with
  | zero => exact keeps_pure _
  | succ k ih => exact keeps_bind (h.decodeLevel c numLevels k) fun _ => ih

theorem Stable.decodeChannel (h : Stable I) (c : Nat) : Keeps I (decodeChannel c) :=
  keeps_bind keeps_get fun _ => h.decodeLevels c _ _

theorem Stable.checkDestRegion (h : Stable I) : Keeps I checkDestRegion :=
  keeps_bind keeps_get fun s =>
    h.failIf (s.offx.toNat + s.hdr.imageWidth.toNat > (boundDest s).w.toNat ∨
      s.offy.toNat + s.hdr.imageHeight.toNat > (boundDest s).h.toNat) _ _

/-- DECODE also writes SESS, OFFX and OFFY. -/
theorem Stable.decodeImage (h : Stable I) (hs : ∀ x s, I s → I (setSess x s))
    (ho : ∀ x y s, I s → I (setOffsets x y s)) (x y : U16) : Keeps I (decodeImage x y) :=
  keeps_bind keeps_get fun s => keeps_bind (h.failIf (s.sess ≠ .ready) _ _) fun _ =>
    keeps_bind (keeps_modify fun s hI => h.setSeq _ _ (ho x y _ (hs .running s hI))) fun _ =>
      keeps_bind (h.parseHeader h.readField) fun _ => keeps_bind h.checkDestRegion fun _ =>
        keeps_bind keeps_get fun _ => keeps_bind (keeps_forFrom (fun c => h.decodeChannel c) _ _) fun _ =>
          keeps_bind (h.moveSeq _ _ _ _) fun _ => keeps_modify fun s => hs _ s

theorem Stable.takeSingles (h : Stable I) (n : Nat) : Keeps I (takeSingles n) := by
  induction n with
  | zero => exact keeps_pure _
  | succ n ih => exact keeps_bind (h.takeBits 1) fun _ => ih

theorem Stable.consumeCode (h : Stable I) (z suffix : Nat) : Keeps I (consumeCode z suffix) :=
  keeps_bind (h.takeSingles _) fun _ => keeps_bind (h.takeBits _) fun _ => keeps_pure _

theorem Stable.consumeToken (h : Stable I) (run : Nat) (value : Int) : Keeps I (consumeToken run value) := by
  refine keeps_bind (h.consumeCode _ _) fun r => keeps_bind (h.consumeCode _ _) fun m => ?_
  by_cases hm : m = 0
  · simp only [if_pos hm]
    exact keeps_pure _
  · simp only [if_neg hm]
    exact keeps_bind (h.takeBits 1) fun _ => keeps_pure _

end Sys2Proof.Machine
end

