-- ==== Sys2Proof/Laws/PerInstr.lean ====
section
/-! SUPPORT. Facts made per instruction: family `SelectCode`, that the select code and ports an instruction encodes to
name it again (spec/30_encoding.md R91, R92); a stream word has no select code. -/

namespace Sys2Proof.Laws.SelectCode

/-- The command an instruction encodes to, if it is one, decodes to it. -/
def Statement (i : Instr) : Prop :=
  ∀ code ports, encode i = .command code ports → decodeCommand code ports = .ok i

theorem reset : Statement .reset := by
  intro code ports h
  cases h
  rfl

theorem construct (input : InHandle) (dest : DestHandle) : Statement (.construct input dest) := by
  intro code ports h
  cases h
  rfl

theorem config (c : BitVec 2) (l : BitVec 2) (prescale : BitVec 4) : Statement (.config c l prescale) := by
  intro code ports h
  cases h
  rfl

theorem decode (offsetX : U16) (offsetY : U16) : Statement (.decode offsetX offsetY) := by
  intro code ports h
  cases h
  rfl

theorem status : Statement .status := by
  intro code ports h
  cases h
  rfl

theorem brRead (n : Nat) : Statement (.brRead n) := by
  intro code ports h
  cases h
  rfl

theorem brPeek (n : Nat) : Statement (.brPeek n) := by
  intro code ports h
  cases h
  rfl

theorem brAtEnd : Statement .brAtEnd := by
  intro code ports h
  cases h
  rfl

theorem rlvDecode : Statement .rlvDecode := by
  intro code ports h
  cases h
  rfl

theorem logBuild : Statement .logBuild := by
  intro code ports h
  cases h
  rfl

theorem logDecode (v : U32) : Statement (.logDecode v) := by
  intro code ports h
  cases h
  rfl

theorem plCreate (width : U16) (height : U16) : Statement (.plCreate width height) := by
  intro code ports h
  cases h
  rfl

theorem plClear (plane : Plane) : Statement (.plClear plane) := by
  intro code ports h
  cases h
  rfl

theorem plRead (plane : Plane) (x : U16) (y : U16) : Statement (.plRead plane x y) := by
  intro code ports h
  cases h
  rfl

theorem plWrite (plane : Plane) (x : U16) (y : U16) (value : Coef) : Statement (.plWrite plane x y value) := by
  intro code ports h
  cases h
  rfl

theorem plView (plane : Plane) (x0 : U16) (y0 : U16) (w : U16) (h : U16) : Statement (.plView plane x0 y0 w h) := by
  intro code ports h
  cases h
  rfl

theorem lvInit (lv : LevelRef) (width : U16) (height : U16) (numBands : Nat) :
    Statement (.lvInit lv width height numBands) := by
  intro code ports h
  cases h
  rfl

theorem lvClear (lv : LevelRef) : Statement (.lvClear lv) := by
  intro code ports h
  cases h
  rfl

theorem lvSetValid (lv : LevelRef) (band : BitVec 8) : Statement (.lvSetValid lv band) := by
  intro code ports h
  cases h
  rfl

theorem lvIsValid (lv : LevelRef) (band : BitVec 8) : Statement (.lvIsValid lv band) := by
  intro code ports h
  cases h
  rfl

theorem lvAllValid (lv : LevelRef) : Statement (.lvAllValid lv) := by
  intro code ports h
  cases h
  rfl

theorem lvDequant (out : Plane) (inp : Plane) (quant : U16) : Statement (.lvDequant out inp quant) := by
  intro code ports h
  cases h
  rfl

theorem lvRecon (lv : LevelRef) (dest : Sink) (prescale : BitVec 4) (clamp : Bool) :
    Statement (.lvRecon lv dest prescale clamp) := by
  intro code ports h
  cases h
  rfl

theorem lvBandPlane (lv : LevelRef) (band : BitVec 8) : Statement (.lvBandPlane lv band) := by
  intro code ports h
  cases h
  rfl

theorem ctLevel (c : BitVec 8) (l : BitVec 8) : Statement (.ctLevel c l) := by
  intro code ports h
  cases h
  rfl

theorem ctPrescale (c : BitVec 8) (l : BitVec 8) : Statement (.ctPrescale c l) := by
  intro code ports h
  cases h
  rfl

theorem hdrParse : Statement .hdrParse := by
  intro code ports h
  cases h
  rfl

theorem bandFill (lv : LevelRef) (band : BitVec 8) : Statement (.bandFill lv band) := by
  intro code ports h
  cases h
  rfl

theorem hdr (h : HeaderWord) : Statement (.hdr h) := by
  intro code ports h
  cases h

theorem ueZ0 : Statement .ueZ0 := by
  intro code ports h
  cases h

theorem ueZ1 (x : BitVec 1) : Statement (.ueZ1 x) := by
  intro code ports h
  cases h

theorem ueZ2 (x : BitVec 2) : Statement (.ueZ2 x) := by
  intro code ports h
  cases h

theorem ueZ3 (x : BitVec 3) : Statement (.ueZ3 x) := by
  intro code ports h
  cases h

theorem ueZ4 (x : BitVec 4) : Statement (.ueZ4 x) := by
  intro code ports h
  cases h

theorem ueZ5 (x : BitVec 5) : Statement (.ueZ5 x) := by
  intro code ports h
  cases h

theorem ueZ6 (x : BitVec 6) : Statement (.ueZ6 x) := by
  intro code ports h
  cases h

theorem ueZ7 (x : BitVec 7) : Statement (.ueZ7 x) := by
  intro code ports h
  cases h

theorem ueZ8 (x : BitVec 8) : Statement (.ueZ8 x) := by
  intro code ports h
  cases h

theorem ueZ9 (x : BitVec 9) : Statement (.ueZ9 x) := by
  intro code ports h
  cases h

theorem ueZ10 (x : BitVec 10) : Statement (.ueZ10 x) := by
  intro code ports h
  cases h

theorem ueZ11 (x : BitVec 11) : Statement (.ueZ11 x) := by
  intro code ports h
  cases h

theorem ueZ12 (x : BitVec 12) : Statement (.ueZ12 x) := by
  intro code ports h
  cases h

theorem ueMalformed : Statement .ueMalformed := by
  intro code ports h
  cases h

theorem tok (run : Nat) (value : Int) : Statement (.tok run value) := by
  intro code ports h
  cases h

end Sys2Proof.Laws.SelectCode
end

