-- ==== Sys2Proof/Laws/Units.lean ====
section
/-! SUPPORT. The units' shared operations: what each can have done when it answers, said once; loops; reads of one
coefficient after a write. -/

namespace Sys2Proof.Machine

/-! ## Loops -/

/-- A loop whose turns take `P k` to `P (k + 1)` takes `P 0` to `P n`. -/
theorem forFrom_ok {f : Nat → Op Unit} (P : Nat → State → Prop) {start n : Nat} {s : State}
    (hf : ∀ k s, k < n → P k s → ∃ t, f (start + k) s = .ok () t ∧ P (k + 1) t) (h0 : P 0 s) :
    ∃ t, forFrom start n f s = .ok () t ∧ P n t := by
  induction n generalizing start P s with
  | zero => exact ⟨s, rfl, h0⟩
  | succ n ih =>
    obtain ⟨u, hu, hP⟩ := hf 0 s (by omega) h0
    obtain ⟨t, ht, hQ⟩ := ih (start := start + 1) (s := u) (fun k => P (k + 1))
      (fun k s hk hs => by
        obtain ⟨t, h, hp⟩ := hf (k + 1) s (by omega) hs
        exact ⟨t, by rwa [show start + 1 + k = start + (k + 1) by omega], hp⟩) hP
    exact ⟨t, by rw [forFrom, op_bind_of_ok (s' := u) (a := ()) (by simpa using hu), ht], hQ⟩

/-- A loop of checks, none of which changes the state when it passes: where the loop passes, every turn did. -/
theorem forFrom_checks {f : Nat → Op Unit} {start n : Nat} {s t : State}
    (hf : ∀ k s t, f k s = .ok () t → t = s) (h : forFrom start n f s = .ok () t) :
    t = s ∧ ∀ k < n, f (start + k) s = .ok () s := by
  induction n generalizing start with
  | zero => cases h; exact ⟨rfl, fun k hk => absurd hk (by omega)⟩
  | succ n ih =>
    obtain ⟨_, u, h1, h2⟩ := op_bind_ok h
    obtain rfl := hf _ _ _ h1
    obtain ⟨ht, hk⟩ := ih h2
    refine ⟨ht, fun k hlt => ?_⟩
    cases k with
    | zero => exact h1
    | succ k => rw [show start + (k + 1) = start + 1 + k by omega]; exact hk k (by omega)

/-- A collecting loop whose turns read without changing the state. -/
theorem mapFrom_reads {α : Type} {f : Nat → Op α} {g : Nat → α} {start n : Nat} {s : State}
    (hf : ∀ k, k < n → f (start + k) s = .ok (g (start + k)) s) :
    mapFrom start n f s = .ok ((List.range' start n).map g) s := by
  induction n generalizing start with
  | zero => rfl
  | succ n ih =>
    rw [mapFrom, op_bind_of_ok (by simpa using hf 0 (by omega)),
      op_bind_of_ok (ih fun k hk => by
        have := hf (k + 1) (by omega)
        rwa [show start + (k + 1) = start + 1 + k by omega] at this)]
    simp [List.range'_succ]

/-! ## The reader -/

/-- Bits consumed: they were there, and POS moved over them. -/
theorem takeBits_ok {n : Nat} {s t : State} (h : takeBits n s = .ok () t) :
    s.pos + n ≤ streamEnd s ∧ t = setPos (s.pos + n) s := by
  by_cases hn : s.pos + n ≤ streamEnd s
  · rw [takeBits_fits hn] at h
    cases h
    exact ⟨hn, rfl⟩
  · rw [takeBits_overrun (by omega)] at h
    cases h

/-- A peek that answers: it fitted, and nothing changed. -/
theorem bitPeek_ok {n v : Nat} {s t : State} (h : bitPeek n s = .ok v t) :
    n ≤ 32 ∧ s.pos + n ≤ streamEnd s ∧ v = bitsToNat (streamBits s s.pos n) ∧ t = s := by
  have h' : bitRead n s = .ok v (setPos (t.pos + n) t) := by rw [bitRead, op_bind_of_ok h]; rfl
  obtain ⟨hn, hp, hv, -⟩ := bitRead_ok h'
  rw [bitPeek_fits hn hp] at h
  cases h
  exact ⟨hn, hp, rfl, rfl⟩

@[simp] theorem streamBits_zero (s : State) (p : Nat) : streamBits s p 0 = [] := rfl

theorem streamBits_length (s : State) (p n : Nat) : (streamBits s p n).length = n := by simp [streamBits]

/-- The bits from POS on, split where a read of `n` bits ends. -/
theorem streamRest_split {n : Nat} {s : State} (h : s.pos + n ≤ streamEnd s) :
    streamRest s = streamBits s s.pos n ++ streamRest (setPos (s.pos + n) s) := by
  simp only [streamRest, streamBits, setPos_pos, streamEnd_setPos]
  rw [show streamEnd s - s.pos = n + (streamEnd s - (s.pos + n)) by omega, ← List.range'_append_1, List.map_append]
  rfl

/-! ## The table -/

/-- After the lazy build the table is valid; a valid one stays as it was. -/
theorem ensureTable_eq (s : State) :
    ensureTable s = .ok () (if s.logtValid then s else setLogt logTable s) := by
  rw [ensureTable, op_bind_of_ok (op_get s)]
  cases s.logtValid <;> rfl

/-- An expansion that answers: its index was legal, and at most the table was built. -/
theorem logDecode_ok {v r : Int} {s t : State} (h : logDecode v s = .ok r t) :
    v.natAbs ≤ 4095 ∧ t = (if s.logtValid then s else setLogt logTable s) ∧
      r = v.sign * (t.logt.getD v.natAbs 0).toInt := by
  obtain ⟨_, s1, h1, h2⟩ := op_bind_ok h
  rw [ensureTable_eq] at h1
  cases h1
  obtain ⟨_, s2, h3, h4⟩ := op_bind_ok h2
  obtain ⟨hn, rfl⟩ := failIf_ok h3
  cases h4
  exact ⟨by omega, rfl, rfl⟩

/-! ## Planes -/

/-- A plane created: its size is legal, its buffer new and zero, NEXT_BUF one higher. -/
theorem planeCreate_ok {w h : U16} {p : Plane} {s t : State} (ho : planeCreate w h s = .ok p t) :
    w ≠ 0 ∧ h ≠ 0 ∧ p = ⟨some s.nextBuf, 0, w, h, w, true, s.epoch⟩ ∧
      t = setNextBuf (s.nextBuf + 1) (setBufs (bufPut s.bufs s.nextBuf ⟨w.toNat * h.toNat, []⟩) s) := by
  obtain ⟨_, s1, h1, h2⟩ := op_bind_ok ho
  obtain ⟨hn, rfl⟩ := failIf_ok h1
  cases h2
  exact ⟨fun e => hn (.inl e), fun e => hn (.inr e), rfl, rfl⟩

theorem planeCreate_legal {w h : U16} (hw : w ≠ 0) (hh : h ≠ 0) (s : State) :
    planeCreate w h s = .ok ⟨some s.nextBuf, 0, w, h, w, true, s.epoch⟩
      (setNextBuf (s.nextBuf + 1) (setBufs (bufPut s.bufs s.nextBuf ⟨w.toNat * h.toNat, []⟩) s)) := by
  rw [planeCreate, op_bind_of_ok (failIf_neg (fun e => e.elim hw hh) _ _ s)]
  rfl

/-- Dangling is what CheckDescriptor raises on. -/
theorem dangling_iff {s : State} {p : Plane} : dangling s p ↔ liveBuffer s p = none := by
  unfold dangling liveBuffer
  by_cases he : p.epoch = s.epoch
  · cases hp : p.buf with
    | none => simp [he]
    | some id => simp [he]
  · simp [he]

theorem not_dangling {s : State} {p : Plane} {e : Nat × Buffer} (h : liveBuffer s p = some e) : ¬dangling s p := by
  rw [dangling_iff, h]
  exact Option.some_ne_none e

/-- The length of a live plane's buffer. -/
theorem planeLen_live {s : State} {p : Plane} {id : Nat} {b : Buffer} (h : liveBuffer s p = some (id, b)) :
    planeLen s p = b.len := by
  obtain ⟨he, hp, hb⟩ := liveBuffer_eq_some.mp h
  simp [planeLen, he, hp, hb]

/-- A view taken: the parent's buffer is there, the view lies inside it, nothing changed. -/
theorem planeView_ok {p v : Plane} {x0 y0 w h : U16} {s t : State} (ho : planeView p x0 y0 w h s = .ok v t) :
    ¬dangling s p ∧ w ≠ 0 ∧ h ≠ 0 ∧ x0.toNat + w.toNat ≤ p.width.toNat ∧ y0.toNat + h.toNat ≤ p.height.toNat ∧
      v = viewOf p x0 y0 w h ∧ t = s := by
  obtain ⟨e, s1, h1, h2⟩ := op_bind_ok ho
  obtain ⟨hl, rfl⟩ := checkDescriptor_ok h1
  obtain ⟨_, s2, h3, h4⟩ := op_bind_ok h2
  obtain ⟨hn, rfl⟩ := failIf_ok h3
  obtain ⟨_, s3, h5, h6⟩ := op_bind_ok h4
  obtain ⟨hm, rfl⟩ := failIf_ok h5
  cases h6
  exact ⟨not_dangling hl, fun e => hn (.inl e), fun e => hn (.inr e), by omega, by omega, rfl, rfl⟩

/-- A legal plane has its buffer. -/
theorem planeLegal_buffer {s : State} {p : Plane} (h : planeLegal s p) :
    ∃ id b, liveBuffer s p = some (id, b) ∧
      p.base + (p.height.toNat - 1) * p.stride.toNat + p.width.toNat ≤ b.len := by
  obtain ⟨-, hw, -, hl⟩ := h
  cases hb : liveBuffer s p with
  | none =>
    have h0 : planeLen s p = 0 := by
      rcases dangling_iff.mpr hb with he | hn
      · exact if_neg he
      · simp [planeLen, hn]
    omega
  | some e => exact ⟨e.1, e.2, rfl, by rwa [planeLen_live hb] at hl⟩

/-- Every element of a legal plane is inside its buffer. -/
theorem planeAddr_lt {p : Plane} {b : Buffer} {x y : Nat} (hx : x < p.width.toNat)
    (hy : y < p.height.toNat)
    (hl : p.base + (p.height.toNat - 1) * p.stride.toNat + p.width.toNat ≤ b.len) : planeAddr p x y < b.len := by
  have : y * p.stride.toNat ≤ (p.height.toNat - 1) * p.stride.toNat := Nat.mul_le_mul_right _ (by omega)
  unfold planeAddr
  omega

/-- Two elements of a plane whose stride is at least its width lie at different addresses. -/
theorem planeAddr_inj {p : Plane} {x y x' y' : Nat} (hs : p.width.toNat ≤ p.stride.toNat) (hx : x < p.width.toNat)
    (hx' : x' < p.width.toNat) (h : planeAddr p x y = planeAddr p x' y') : x = x' ∧ y = y' := by
  unfold planeAddr at h
  have hy : y = y' := by
    rcases Nat.lt_trichotomy y y' with hlt | he | hlt
    · have := Nat.mul_le_mul_right p.stride.toNat (show y + 1 ≤ y' from hlt)
      rw [Nat.add_mul] at this
      omega
    · exact he
    · have := Nat.mul_le_mul_right p.stride.toNat (show y' + 1 ≤ y from hlt)
      rw [Nat.add_mul] at this
      omega
  subst hy
  exact ⟨by omega, rfl⟩

/-- Every element of a plane checked: nothing changed, and each element is inside the buffer. -/
theorem checkElements_ok {p : Plane} {s t : State} (h : checkElements p s = .ok () t) :
    t = s ∧ ∀ x y, x < p.width.toNat → y < p.height.toNat → planeAddr p x y < planeLen s p := by
  have hturn : ∀ x y s t, (checkAccess p x y >>= fun _ => pure () : Op Unit) s = .ok () t →
      t = s ∧ planeAddr p x y < planeLen s p := fun x y s t h => by
    obtain ⟨e, u, h1, h2⟩ := op_bind_ok h
    obtain ⟨hl, -, -, ha, rfl⟩ := checkAccess_ok h1
    cases h2
    exact ⟨rfl, by rwa [planeLen_live hl]⟩
  have hrow := fun y s t h =>
    forFrom_checks (start := 0) (n := p.width.toNat) (s := s) (t := t) (fun x s t h => (hturn x y s t h).1) h
  obtain ⟨ht, hall⟩ := forFrom_checks (fun y s t h => (hrow y s t h).1) h
  refine ⟨ht, fun x y hx hy => ?_⟩
  simpa using (hturn _ _ _ _ ((hrow _ _ _ (hall y hy)).2 x hx)).2

/-- The check passes where every element is inside the buffer of a live descriptor. -/
theorem checkElements_found {p : Plane} {s : State} (hd : ¬dangling s p)
    (ha : ∀ x y, x < p.width.toNat → y < p.height.toNat → planeAddr p x y < planeLen s p) :
    checkElements p s = .ok () s := by
  cases hl : liveBuffer s p with
  | none => exact absurd (dangling_iff.mpr hl) hd
  | some e =>
    obtain ⟨t, h, rfl⟩ := forFrom_ok (start := 0) (n := p.height.toNat) (fun _ t => t = s)
      (f := fun y => forFrom 0 p.width.toNat fun x => do let _ ← checkAccess p x y; pure ())
      (fun y t hy ht => by
        subst ht
        refine forFrom_ok (fun _ u => u = t) (fun x u hx hu => ?_) rfl
        subst hu
        refine ⟨u, ?_, rfl⟩
        have := ha x y hx hy
        rw [planeLen_live hl] at this
        simp only [Nat.zero_add]
        rw [op_bind_of_ok (checkAccess_found hl hx hy this), op_pure]) rfl
    exact h

/-- A write of one element is read back, and every other coefficient reads as before. -/
theorem coefAt_put {s : State} {id e : Nat} {b : Buffer} {v : Coef} (hb : bufFind s.bufs id = some b)
    (hwf : Cells.wf b.cells) (he : e < b.len) (id' e' : Nat) :
    coefAt (setBufs (bufPut s.bufs id ⟨b.len, cellWrite b.cells e v⟩) s) id' e' =
      if id' = id ∧ e' = e then some v else coefAt s id' e' := by
  unfold coefAt
  by_cases hid : id' = id
  · subst hid
    by_cases he' : e' = e
    · subst he'
      simp [he, cellRead_cellWrite_same _ _ _ hwf]
    · simp [hb, he', cellRead_cellWrite_ne _ _ _ _ he']
  · simp [hid, bufFind_bufPut_ne _ _ _ _ hid]

/-! ## Levels -/

/-- A band's plane taken: the band is declared, the view is of the whole band, nothing changed. -/
theorem levelBandPlane_ok {lv : LevelRef} {b : Nat} {p : Plane} {s t : State}
    (h : levelBandPlane lv b s = .ok p t) :
    bandReady s lv b ∧
      p = viewOf (bandAt (levelAt s lv.c.toNat lv.l.toNat) b).plane 0 0
        (levelAt s lv.c.toNat lv.l.toNat).width (levelAt s lv.c.toNat lv.l.toNat).height ∧ t = s := by
  obtain ⟨lev, s1, h1, h2⟩ := op_bind_ok h
  obtain ⟨hc, hl, rfl, hi, hb, rfl⟩ := fetchBandLevel_ok h1
  obtain ⟨-, -, -, -, -, rfl, rfl⟩ := planeView_ok h2
  exact ⟨⟨hc, hl, hi, hb⟩, rfl, rfl⟩

/-- A sink checked: it has the size asked for, a plane has all its elements, nothing changed. -/
theorem checkSink_ok {dest : Sink} {w2 h2 : Nat} {clamp : Bool} {s t : State}
    (h : checkSink dest w2 h2 clamp s = .ok () t) :
    t = s ∧ match dest with
      | .plane p => ¬dangling s p ∧ p.width.toNat = w2 ∧ p.height.toNat = h2 ∧
          ∀ x y, x < w2 → y < h2 → planeAddr p x y < planeLen s p
      | .image _ => clamp = true ∧ w2 = channelWidth s ∧ h2 = channelHeight s := by
  cases dest with
  | plane p =>
    obtain ⟨e, s1, h1, hrest⟩ := op_bind_ok h
    obtain ⟨hl, rfl⟩ := checkDescriptor_ok h1
    obtain ⟨_, s2, h3, h4⟩ := op_bind_ok hrest
    obtain ⟨hn, rfl⟩ := failIf_ok h3
    obtain ⟨rfl, ha⟩ := checkElements_ok h4
    exact ⟨rfl, not_dangling hl, by omega, by omega, fun x y hx hy => ha x y (by omega) (by omega)⟩
  | image c =>
    obtain ⟨_, s1, h1, h2⟩ := op_bind_ok h
    obtain ⟨hc, rfl⟩ := failIf_ok h1
    rw [op_bind_of_ok (op_get _)] at h2
    obtain ⟨hn, rfl⟩ := failIf_ok h2
    exact ⟨rfl, by simpa using hc, by omega, by omega⟩

/-- LV.CLEAR on a legal reference: the declared bands' buffers go, the level is as reset leaves it. -/
theorem levelClear_legal {lv : LevelRef} {s : State} (hc : lv.c.toNat ≤ 3) (hl : lv.l.toNat ≤ 2) :
    levelClear lv s = .ok ()
      (setLevel lv.c.toNat lv.l.toNat Level.reset
        (if (levelAt s lv.c.toNat lv.l.toNat).init then
          setBufs ((levelBufs (levelAt s lv.c.toNat lv.l.toNat)).foldl bufDrop s.bufs) s
        else s)) := by
  rw [levelClear, op_bind_of_ok (fetchLevel_legal hc hl), dropBands]
  cases (levelAt s lv.c.toNat lv.l.toNat).init <;> rfl

end Sys2Proof.Machine
end

