-- ==== Sys2Proof/Tests/Slice0.lean ====
section
/-! SUPPORT. Tests: ill-formed terms refused; every constructor's decoding from a word written out from the spec's
encoding; single instructions on small states with the results of spec/95_test_vectors.md; and for every statement
with hypotheses a state and operands that meet them (`witness_<statement>`). -/

namespace Sys2Proof.Tests

set_option Elab.async false
set_option synthInstance.maxSize 2000
set_option synthInstance.maxHeartbeats 400000

open Sys2Proof.Machine

/-! ## Fixtures -/

/-- The state an outcome goes on with. -/
def after : Host.Outcome State Fault Refusal → Option State
  | .next t => some t
  | _ => none

/-- POS and the result ports after an instruction. -/
def shows (i : Instr) (s : State) : Option (Nat × Result) := (after (exec i s)).map fun t => (t.pos, t.result)

/-- POS and the error an instruction raises: kind, cause, info. -/
def raises (i : Instr) (s : State) : Option (Nat × Nat × Nat × Nat) :=
  (after (exec i s)).bind fun t =>
    if t.sess = .faulted then some (t.pos, t.err.kind.toNat, t.err.cause.toNat, t.err.info.toNat) else none

/-- A READY session with the given bytes as IN, POS at `pos`, and a 4 by 4 destination of depth 16. -/
def reading (bytes : List Byte) (pos : Nat) : State :=
  { State.reset with
    sess := .ready
    binding := some ⟨⟨0, bytes.length⟩, ⟨0, 4, 4, 16⟩⟩
    mem := storeBytes [] 0 bytes
    pos := pos }

/-- The buffer of 95_test_vectors.md C2: BUF[5] = [1, 2, 3, 4, 5, 6], NEXT_BUF = 6. -/
def planes : State :=
  { State.reset with bufs := [(5, ⟨6, [(0, 1), (1, 2), (2, 3), (3, 4), (4, 5), (5, 6)]⟩)], nextBuf := 6 }

/-- The plane of C1 on it, the view of C6, and one on a buffer that is not there. -/
def planeP : Plane := ⟨some 5, 0, 3, 2, 3, true, 0⟩
def viewV : Plane := ⟨some 5, 1, 2, 2, 3, false, 0⟩
def goneP : Plane := ⟨some 4, 0, 1, 1, 1, true, 0⟩

/-- A band of a level of 1 by 1 elements on buffer `id`. -/
def oneBand (id : Nat) : Band := ⟨⟨some id, 0, 1, 1, 1, true, 0⟩, 0⟩

/-- The level of vector Y1 at (0, 1), bands 10, 4, -6, 3, with mask `valid`, a 2 by 2 plane on buffer 9, and a header
and binding that make the level's output the whole image. -/
def level (valid : BitVec 4) : State :=
  setLevel 0 1 ⟨true, 1, 1, 1, 4, valid, #v[oneBand 0, oneBand 1, oneBand 2, oneBand 3]⟩
    { State.reset with
      bufs := [(0, ⟨1, [(0, 10)]⟩), (1, ⟨1, [(0, 4)]⟩), (2, ⟨1, [(0, -6)]⟩), (3, ⟨1, [(0, 3)]⟩), (9, ⟨4, []⟩)]
      nextBuf := 10
      hdr := { HdrFields.zero with
        imageWidth := 2, imageHeight := 2, patternWidth := 1, patternHeight := 1, bitsPerComponent := 8 }
      sess := .ready
      binding := some ⟨⟨0, 0⟩, ⟨0, 3, 3, 16⟩⟩
      offx := 1
      offy := 1 }

def sinkP : Plane := ⟨some 9, 0, 2, 2, 2, true, 0⟩
def lv01 : LevelRef := ⟨0, 1⟩

/-- A 2 by 2 level with four zero bands at (0, 1) whose stream is `bytes`. -/
def filling (bytes : List Byte) : State :=
  setLevel 0 1
    ⟨true, 2, 2, 2, 4, 0, #v[⟨⟨some 0, 0, 2, 2, 2, true, 0⟩, 0⟩, ⟨⟨some 1, 0, 2, 2, 2, true, 0⟩, 0⟩,
      ⟨⟨some 2, 0, 2, 2, 2, true, 0⟩, 0⟩, ⟨⟨some 3, 0, 2, 2, 2, true, 0⟩, 0⟩]⟩
    { reading bytes 0 with bufs := [(0, ⟨4, []⟩), (1, ⟨4, []⟩), (2, ⟨4, []⟩), (3, ⟨4, []⟩)], nextBuf := 4 }

/-- The 48 header bytes of P1 with image size 2 by 2, and the header they hold. -/
def headBytes : List Byte :=
  [0, 1, 0, 4, 0, 1, 0, 2, 0, 2, 0, 1, 0, 1, 0, 4, 0, 12, 0, 16] ++
  [0, 1, 2, 3, 4, 5, 6, 7, 8, 9, 10, 11, 12, 13, 14, 15] ++ [0, 0, 0, 1] ++ [0, 1, 0, 1, 0, 1, 0, 1]

def head : HeaderWord where
  fields :=
    { numChannels := 1, numSubbands := 4, numWavelets := 1, imageWidth := 2, imageHeight := 2, patternWidth := 1
      patternHeight := 1, formatTag := 4, bitsPerComponent := 12, lowpassPrecision := 16
      sequenceId := #v[0, 1, 2, 3, 4, 5, 6, 7, 8, 9, 10, 11, 12, 13, 14, 15], sequenceNumber := 1 }
  quant := [1, 1, 1, 1]

/-- One level of 1 by 1 bands: `tok 0,+20` and three times `tok 0,0`, 17 bits. -/
def smallTokens (_c sb : Nat) : List (Nat × Int) := if sb = 0 then [(0, 20)] else [(0, 0)]
def smallStream : State := reading (headBytes ++ [0x85, 0x5F, 0x80]) 0

/-- A FAULTED session with the error of program P2. -/
def faulted : State := takeError .channelCount 5 (reading [0, 5] 16)

/-! ## Ill-formed terms -/

theorem test_wf_header_length : Instr.wellFormed (.hdr ⟨{ HdrFields.zero with numSubbands := 4 }, [1, 1, 1]⟩) = false := by
  decide
theorem test_wf_run : Instr.wellFormed (.tok 8191 0) = false := by decide
theorem test_wf_magnitude : Instr.wellFormed (.tok 0 (-8191)) = false := by decide

/-! ## Decoding (30_encoding.md R91, R92) -/

variable (p : Ports)

theorem test_decode_reset : decodeCommand 0x00#8 p = .ok .reset := rfl
theorem test_decode_construct : decodeCommand 0x01#8 p = .ok (.construct p.input p.dest) := rfl
theorem test_decode_config : decodeCommand 0x02#8 p = .ok (.config p.configC p.configL p.prescale) := rfl
theorem test_decode_decode : decodeCommand 0x03#8 p = .ok (.decode p.offsetX p.offsetY) := rfl
theorem test_decode_status : decodeCommand 0x04#8 p = .ok .status := rfl
theorem test_decode_brRead : decodeCommand 0x10#8 p = .ok (.brRead p.n) := rfl
theorem test_decode_brPeek : decodeCommand 0x11#8 p = .ok (.brPeek p.n) := rfl
theorem test_decode_brAtEnd : decodeCommand 0x12#8 p = .ok .brAtEnd := rfl
theorem test_decode_rlvDecode : decodeCommand 0x20#8 p = .ok .rlvDecode := rfl
theorem test_decode_logBuild : decodeCommand 0x30#8 p = .ok .logBuild := rfl
theorem test_decode_logDecode : decodeCommand 0x31#8 p = .ok (.logDecode p.v) := rfl
theorem test_decode_plCreate : decodeCommand 0x40#8 p = .ok (.plCreate p.width p.height) := rfl
theorem test_decode_plClear : decodeCommand 0x41#8 p = .ok (.plClear p.plane) := rfl
theorem test_decode_plRead : decodeCommand 0x42#8 p = .ok (.plRead p.plane p.x p.y) := rfl
theorem test_decode_plWrite : decodeCommand 0x43#8 p = .ok (.plWrite p.plane p.x p.y p.value) := rfl
theorem test_decode_plView : decodeCommand 0x44#8 p = .ok (.plView p.plane p.x0 p.y0 p.w p.h) := rfl
theorem test_decode_lvInit : decodeCommand 0x50#8 p = .ok (.lvInit p.lv p.width p.height p.numBands) := rfl
theorem test_decode_lvClear : decodeCommand 0x51#8 p = .ok (.lvClear p.lv) := rfl
theorem test_decode_lvSetValid : decodeCommand 0x52#8 p = .ok (.lvSetValid p.lv p.bandIndex) := rfl
theorem test_decode_lvIsValid : decodeCommand 0x53#8 p = .ok (.lvIsValid p.lv p.bandIndex) := rfl
theorem test_decode_lvAllValid : decodeCommand 0x54#8 p = .ok (.lvAllValid p.lv) := rfl
theorem test_decode_lvDequant : decodeCommand 0x55#8 p = .ok (.lvDequant p.outPlane p.inPlane p.quant) := rfl
theorem test_decode_lvRecon :
    decodeCommand 0x56#8 p = .ok (.lvRecon p.lv p.sink p.prescale p.clampToUnsigned) := rfl
theorem test_decode_lvBandPlane : decodeCommand 0x57#8 p = .ok (.lvBandPlane p.lv p.bandIndex) := rfl
theorem test_decode_ctLevel : decodeCommand 0x60#8 p = .ok (.ctLevel p.c p.l) := rfl
theorem test_decode_ctPrescale : decodeCommand 0x61#8 p = .ok (.ctPrescale p.c p.l) := rfl
theorem test_decode_hdrParse : decodeCommand 0x70#8 p = .ok .hdrParse := rfl
theorem test_decode_bandFill : decodeCommand 0x71#8 p = .ok (.bandFill p.lv p.bandIndex) := rfl
theorem test_decode_undefined : decodeCommand 0x05#8 p = .error (.badCommand 0x05) := rfl

/-! ## Decoding stream words (R93, R98 to R100) -/

/-- The bits of a written-out word. -/
def bits (s : String) : List Bool := (s.toList.filter fun c => c = '0' ∨ c = '1').map fun c => decide (c = '1')

theorem test_decode_ueZ0 : decodeStream .ue (bits "1") = .ok (.ueZ0, []) := by decide +kernel
theorem test_decode_ueZ1 : decodeStream .ue (bits "011") = .ok (.ueZ1 1, []) := by decide +kernel
theorem test_decode_ueZ2 : decodeStream .ue (bits "00110") = .ok (.ueZ2 2, []) := by decide +kernel
theorem test_decode_ueZ3 : decodeStream .ue (bits "0001000") = .ok (.ueZ3 0, []) := by decide +kernel
theorem test_decode_ueZ4 : decodeStream .ue (bits "000010101") = .ok (.ueZ4 5, []) := by decide +kernel
theorem test_decode_ueZ5 : decodeStream .ue (bits "00000100000") = .ok (.ueZ5 0, []) := by decide +kernel
theorem test_decode_ueZ6 : decodeStream .ue (bits "0000001100101") = .ok (.ueZ6 37, []) := by decide +kernel
theorem test_decode_ueZ7 : decodeStream .ue (bits "000000010000001") = .ok (.ueZ7 1, []) := by decide +kernel
theorem test_decode_ueZ8 : decodeStream .ue (bits "00000000110000000") = .ok (.ueZ8 128, []) := by decide +kernel
theorem test_decode_ueZ9 : decodeStream .ue (bits "0000000001000000011") = .ok (.ueZ9 3, []) := by decide +kernel
theorem test_decode_ueZ10 : decodeStream .ue (bits "000000000011000000000") = .ok (.ueZ10 512, []) := by
  decide +kernel
theorem test_decode_ueZ11 : decodeStream .ue (bits "00000000000111111111111") = .ok (.ueZ11 2047, []) := by
  decide +kernel
theorem test_decode_ueZ12 : decodeStream .ue (bits "0000000000001000000000001 1") = .ok (.ueZ12 1, [true]) := by
  decide +kernel
theorem test_decode_ueMalformed : decodeStream .ue (bits "0000000000000 1") = .ok (.ueMalformed, [true]) := by
  decide +kernel
theorem test_decode_tok : decodeStream .tok (bits "00100 00110 1 00000") = .ok (.tok 3 (-5), bits "00000") := by
  decide +kernel
theorem test_decode_tok_zero : decodeStream .tok (bits "1 1 000000") = .ok (.tok 0 0, bits "000000") := by
  decide +kernel
theorem test_decode_hdr : decodeStream .hdr (streamRest (reading headBytes 0)) = .ok (.hdr head, []) := by
  decide +kernel
theorem test_decode_unterminated : decodeStream .tok (bits "00100 000") = .error .unterminated := by decide +kernel

/-! ## Words as spec/opcode_table.json numbers them, and the first step after reset -/

theorem test_table_logDecode : decodeTableWord 8 0x31 = some (.logDecode 0) := by decide +kernel
theorem test_table_hdr :
    decodeTableWord 320 0 = some (.hdr ⟨HdrFields.zero, []⟩) := by decide +kernel
theorem test_table_ueZ9 : decodeTableWord 24 520 = some (.ueZ9 8) := by decide +kernel
theorem test_fetch_ueZ9 :
    (after (step (State.reset.withFetchWord 24 520))).map (fun t => (t.pos, t.result)) =
      some (19, .code 519) := by decide +kernel
theorem test_fetch_status :
    (after (step (State.reset.withFetchWord 8 4))).map (fun t => (t.inbox, t.result)) =
      some ([], .status ⟨0, 0, 0, 0, 0, HdrFields.zero, Vector.replicate 10 0⟩) := by decide +kernel

/-! ## Host commands (95_test_vectors.md section 2.7) -/

/-- M13 -/
theorem test_reset : (after (exec .reset faulted)).map (fun t => (t.sess, t.err, t.pos, t.hdr.numChannels)) =
    some (.idle, Err.none, 0, 0) := by decide +kernel
/-- M3 -/
theorem test_construct : (after (exec (.construct ⟨0, 56⟩ ⟨0, 4, 4, 16⟩) State.reset)).map
    (fun t => (t.sess, t.pos, streamEnd t)) = some (.ready, 0, 448) := by decide +kernel
/-- M4 -/
theorem test_construct_depth : raises (.construct ⟨0, 56⟩ ⟨0, 4, 4, 0⟩) State.reset = some (0, 4, 0x4D, 0) := by
  decide +kernel
/-- M8 -/
theorem test_config : (after (exec (.config 0 1 1) (reading [] 0))).map
    (fun t => (t.sess, prescaleAt t 0 1, prescaleAt t 1 0)) = some (.ready, 1, 0) := by decide +kernel
/-- M9 -/
theorem test_config_level : raises (.config 0 3 1) (reading [] 0) = some (0, 4, 0x47, 3) := by decide +kernel
/-- P2, for a buffer of two bytes -/
theorem test_decode_channels : raises (.decode 0 0) (reading [0, 5] 0) = some (16, 1, 0x01, 5) := by decide +kernel
/-- P1 with 1 by 1 bands: every sample is 20 (R182). -/
theorem test_decode_image : (after (exec (.decode 1 0) smallStream)).map
    (fun t => (t.sess, t.pos, destSample t 0 1 0, destSample t 0 2 1, destSample t 0 0 0)) =
      some (.done, 401, 20, 20, 0) := by decide +kernel
/-- P2 -/
theorem test_status : shows .status faulted =
    some (16, .status ⟨4, 1, 1, 5, 16, HdrFields.zero, Vector.replicate 10 0⟩) := by decide +kernel

/-! ## The bit reader and the RLV decoder (sections 2.1, 2.2) -/

/-- B2 -/
theorem test_brRead : shows (.brRead 7) (reading [0xA5, 0x3C] 3) = some (10, .bits 20) := by decide +kernel
/-- B8 -/
theorem test_brRead_overrun : raises (.brRead 9) (reading [0xA5, 0x3C] 8) = some (8, 2, 0x20, 8) := by
  decide +kernel
/-- B6 -/
theorem test_brPeek : shows (.brPeek 7) (reading [0xA5, 0x3C] 3) = some (3, .bits 20) := by decide +kernel
/-- B9 -/
theorem test_brPeek_count : raises (.brPeek 33) (reading [0xA5, 0x3C] 0) = some (0, 4, 0x42, 33) := by decide +kernel
/-- B10 -/
theorem test_brAtEnd : shows .brAtEnd (reading [0xA5, 0x3C] 10) = some (10, .atEnd false 6) := by decide +kernel
/-- T5 -/
theorem test_rlvDecode : shows .rlvDecode (reading [0x21, 0xA0] 0) = some (11, .token 3 (-5)) := by decide +kernel
/-- T3 -/
theorem test_rlvDecode_cut : raises .rlvDecode (reading [0x20] 0) = some (8, 2, 0x20, 8) := by decide +kernel
/-- T1 -/
theorem test_ueMalformed : raises .ueMalformed (reading [0x00, 0x04] 0) = some (13, 2, 0x21, 13) := by decide +kernel
theorem test_ueZ4 : shows (.ueZ4 5) (reading [0x0A, 0x80] 0) = some (9, .code 20) := by decide +kernel
theorem test_ueZ12 : shows (.ueZ12 4095) (reading [0, 0x0F, 0xFF, 0x80] 0) = some (25, .code 8190) := by
  decide +kernel
theorem test_tok : shows (.tok 3 (-5)) (reading [0x21, 0xA0] 0) = some (11, .token 3 (-5)) := by decide +kernel

/-! ## The table (section 2.3) -/

/-- 41_logtable.md R142: LOGT[28] = 29, LOGT[4095] = 32767. -/
theorem test_logBuild : (after (exec .logBuild State.reset)).map
    (fun t => (t.logtValid, t.logt[28]?, t.logt[4095]?)) = some (true, some 29, some 32767) := by decide +kernel
/-- L3 -/
theorem test_logDecode : shows (.logDecode (-30)) State.reset = some (0, .expanded (-31)) := by decide +kernel
/-- L9 -/
theorem test_logDecode_index : raises (.logDecode 0x80000000) State.reset = some (0, 2, 0x22, 2147483648) := by
  decide +kernel

/-! ## Planes (section 2.4) -/

/-- C1 -/
theorem test_plCreate : shows (.plCreate 3 2) { State.reset with nextBuf := 5 } = some (0, .plane planeP) := by
  decide +kernel
/-- C10 -/
theorem test_plClear : (after (exec (.plClear viewV) planes)).map (fun t => (List.range 6).map (coefAt t 5)) =
    some [some 1, some 0, some 0, some 4, some 0, some 0] := by decide +kernel
/-- C3, C8 -/
theorem test_plRead : shows (.plRead planeP 2 1) planes = some (0, .coef 6) := by decide +kernel
/-- and 42_plane.md R157: an element past its buffer is out of bounds -/
theorem test_plRead_bounds : raises (.plRead viewV 2 0) planes = some (0, 4, 0x44, 131072) ∧
    raises (.plRead ⟨some 5, 2, 3, 2, 3, false, 0⟩ 2 1) planes = some (0, 4, 0x44, 131073) := by decide +kernel
/-- 70 R257: a descriptor from before a RESET is dead. -/
theorem test_plClear_dead : raises (.plClear planeP) { planes with epoch := 1 } = some (0, 4, 0x45, 0) := by
  decide +kernel
/-- C9 -/
theorem test_plWrite : (after (exec (.plWrite viewV 0 1 9) planes)).map (fun t => planeAt t planeP 1 1) =
    some (some 9) := by decide +kernel
/-- C14, C11 -/
theorem test_plView : shows (.plView viewV 1 1 1 1) planes = some (0, .plane ⟨some 5, 5, 1, 1, 3, false, 0⟩) := by
  decide +kernel
theorem test_plView_bounds : raises (.plView planeP 2 0 2 1) planes = some (0, 4, 0x44, 131072) := by decide +kernel

/-! ## Levels (section 2.5) -/

/-- V3, V4 -/
theorem test_lvInit : (after (exec (.lvInit lv01 2 2 4) State.reset)).map
    (fun t => ((levelAt t 0 1).init, (levelAt t 0 1).valid, t.nextBuf, coefAt t 3 3, coefAt t 3 4)) =
      some (true, 0, 4, some 0, none) := by decide +kernel
theorem test_lvInit_twice : raises (.lvInit lv01 2 2 4) (level 0) = some (0, 4, 0x48, 1) := by decide +kernel
/-- V14 -/
theorem test_lvClear : (after (exec (.lvClear lv01) (level 15))).map
    (fun t => ((levelAt t 0 1).init, t.bufs.map Prod.fst)) = some (false, [9]) := by decide +kernel
/-- V5, V7 -/
theorem test_lvSetValid : (after (exec (.lvSetValid lv01 2) (level 1))).map (fun t => (levelAt t 0 1).valid) =
    some 5 := by decide +kernel
theorem test_lvSetValid_band : raises (.lvSetValid lv01 4) (level 1) = some (0, 4, 0x4A, 4) := by decide +kernel
/-- V6 -/
theorem test_lvIsValid : shows (.lvIsValid lv01 1) (level 5) = some (0, .flag false) := by decide +kernel
/-- V1, V9 -/
theorem test_lvAllValid_none : shows (.lvAllValid lv01) State.reset = some (0, .flag false) := by decide +kernel
theorem test_lvAllValid : shows (.lvAllValid lv01) (level 15) = some (0, .flag true) := by decide +kernel
/-- Q9 on a 3 by 2 plane; Q7 -/
theorem test_lvDequant : (after (exec (.lvDequant planeP planeP (-3)) planes)).map
    (fun t => (List.range 6).map (coefAt t 5)) =
      some [some (-3), some (-6), some (-9), some (-12), some (-15), some (-18)] := by decide +kernel
theorem test_lvDequant_wrap : dequantized 32767 32767 = 1 := by decide +kernel
/-- Y1; 20_memory.md R68: channel 1 of a 1 by 1 pattern, its second row lies outside the region -/
theorem test_lvRecon : (after (exec (.lvRecon lv01 (.plane sinkP) 0 false) (level 15))).map
    (fun t => (List.range 4).map (coefAt t 9)) = some [some 10, some 5, some 14, some 12] ∧
    (after (exec (.lvRecon lv01 (.image 1) 0 true) (level 15))).map
      (fun t => (destSample t 0 1 1, destSample t 0 1 2, destSample t 0 2 2, destSample t 0 1 3)) =
        some (0, 10, 5, 0) := by decide +kernel
/-- A right-size sink whose last element lies past its buffer of four. -/
def shortP : Plane := ⟨some 9, 1, 2, 2, 2, false, 0⟩

/-- V8; and 60_exceptions.md R225 (e): a sink that fails a check on its last element is not written. -/
theorem test_lvRecon_early :
    raises (.lvRecon lv01 (.plane sinkP) 0 false) (level 5) = some (0, 3, 0x30, 5) ∧
      raises (.lvRecon lv01 (.plane shortP) 0 false) (level 15) = some (0, 4, 0x44, 65537) ∧
      (after (exec (.lvRecon lv01 (.plane shortP) 0 false) (level 15))).map (fun t => coefAt t 9 1) =
        some (some 0) := by decide +kernel
/-- 43_level.md R172 -/
theorem test_lvBandPlane : shows (.lvBandPlane lv01 3) (level 15) =
    some (0, .plane ⟨some 3, 0, 1, 1, 1, false, 0⟩) := by decide +kernel
/-- K7 -/
theorem test_kernel : synth1D [5, 20, -7] [4, -9, 2] = [6, 4, 17, 24, -4, -9] := by decide +kernel

/-! ## Channel transform, header parse, band fill (sections 2.5, 2.6) -/

/-- V12, and the example of R192 -/
theorem test_ctLevel : raises (.ctLevel 0 3) State.reset = some (0, 4, 0x47, 3) := by decide +kernel
theorem test_ctPrescale : shows (.ctPrescale 1 2) State.reset = some (0, .prescale 0) := by decide +kernel
theorem test_hdrParse : (after (exec .hdrParse (reading headBytes 0))).map
    (fun t => (t.pos, t.hdr, t.quant[3]?, t.quant[4]?)) = some (384, head.fields, some 1, some 0) := by
  decide +kernel
/-- H33 -/
theorem test_hdrParse_cut : raises .hdrParse (reading headBytes.dropLast 0) = some (368, 2, 0x20, 368) := by
  decide +kernel
theorem test_hdr : (after (exec (.hdr head) (reading headBytes 0))).map (fun t => (t.pos, t.hdr)) =
    some (384, head.fields) := by decide +kernel
/-- F1: 010001100 0101 -/
theorem test_bandFill : (after (exec (.bandFill lv01 2) (filling [0x46, 0x28]))).map
    (fun t => (t.pos, (levelAt t 0 1).valid, (List.range 4).map (coefAt t 2))) =
      some (13, 4, [some 0, some 5, some 0, some 0]) := by decide +kernel
/-- F6: 001011 -/
theorem test_bandFill_overflow : raises (.bandFill lv01 2) (filling [0x2C]) = some (6, 2, 0x23, 4) := by
  decide +kernel

/-! ## Witnesses: states and operands that meet the hypotheses of the statements, at the ends of their ranges -/

theorem witness_DecodeOfEncode : Instr.WellFormed (.tok 8190 (-8190)) ∧ Instr.WellFormed (.hdr head) := by decide
theorem witness_CodeWordsPrefixFree :
    encode .ueZ0 = .stream .ue [true] ∧ [true] <+: [true] ∧ 25 ≤ (List.replicate 25 false).length := by decide

theorem witness_StepRunsDecoded_idle : State.reset.inbox = [] := rfl
theorem witness_StepRunsDecoded_host :
    (setInbox [.host 4 p] State.reset).inbox = .host 4 p :: [] ∧ (4#8).toNat ≤ 4 ∧
      decodeCommand 4#8 p = .ok .status := ⟨rfl, by decide, rfl⟩
theorem witness_StepRunsDecoded_unit :
    (setInbox [.unit 0x71 p] State.reset).inbox = .unit 0x71 p :: [] ∧
      decodeCommand 0x71#8 p = .ok (.bandFill p.lv p.bandIndex) := ⟨rfl, rfl⟩
theorem witness_StepRunsDecoded_stream :
    (setInbox [.stream .tok] (reading [0xC0] 0)).inbox = .stream .tok :: [] ∧
      decodeStream .tok (streamRest (setInbox [.stream .tok] (reading [0xC0] 0))) =
        .ok (.tok 0 0, List.replicate 6 false) := by decide +kernel

theorem witness_HostAdmission_code :
    (setInbox [.host 5 p] State.reset).inbox = .host 5 p :: [] ∧ 4 < (5#8).toNat ∧ 4 < (255#8).toNat :=
  ⟨rfl, by decide, by decide⟩
theorem witness_HostAdmission_session : (reading [] 0).sess ≠ .idle ∧ State.reset.sess ≠ .ready := by decide
theorem witness_ErrorTaken : faulted.sess = .faulted ∧ State.reset.sess ≠ .faulted := by decide
theorem witness_FirstErrorStays :
    ∃ t, exec (.plWrite Plane.null 0 0 1) faulted = .next t ∧ Instr.plWrite Plane.null 0 0 1 ≠ .reset ∧
      faulted.sess = .faulted := ⟨_, rfl, by decide, by decide⟩
theorem witness_SessionMachine_decode :
    ∃ t, (setInbox [.host 3 p] (reading [] 0)).inbox = .host 3 p :: [] ∧
      (setInbox [.host 3 p] (reading [] 0)).sess = .ready ∧
      step (setInbox [.host 3 p] (reading [] 0)) = .next t := ⟨_, rfl, rfl, rfl⟩
theorem witness_SessionMachine_construct :
    ∃ t, State.reset.sess ≠ .running ∧
      step (setInbox [.host 1 { p with dest := ⟨0, 1, 65535, 16⟩ }] State.reset) = .next t := ⟨_, by decide, rfl⟩
theorem witness_SessionMachine_faulted :
    (setInbox [.host 5 p] faulted).inbox = .host 5 p :: [] ∧ (setInbox [.host 5 p] faulted).sess = .faulted ∧
      5#8 ≠ 0#8 := ⟨rfl, rfl, by decide⟩

/-- A state that meets every invariant and steps: a level, an element of which LV.DEQUANT changes. -/
def busy : State := setInbox [.unit 0x55 { Ports.zero with outPlane := sinkP, inPlane := sinkP }] (level 15)

theorem witness_StorageKept : storageWf busy ∧ (after (step busy)).isSome := by decide +kernel
theorem witness_LevelsKept : levelsLegal busy ∧ (after (step busy)).isSome := by decide +kernel
theorem witness_SessionKept : sessionLegal busy ∧ sessionLegal faulted ∧ (after (step busy)).isSome := by
  decide +kernel
theorem witness_CursorKept :
    cursorLegal (reading [0xC0] 8) ∧ (after (step (setInbox [.unit 0x20 p] (reading [0xC0] 8)))).isSome :=
  ⟨by decide, rfl⟩
theorem logTable_length : logTable.length = 4096 := List.length_map _ |>.trans List.length_range
theorem tableLegal_of (s : State) (h : s.logt = logTable) : tableLegal s :=
  ⟨(congrArg List.length h).trans logTable_length, fun _ => h⟩
theorem setLogt_reads (t : List Coef) (s : State) : (setLogt t s).logt = t := rfl
theorem witness_TableKept : tableLegal (setLogt logTable State.reset)  := tableLegal_of _ (setLogt_reads _ _)
theorem witness_TableKept_reset : tableLegal State.reset := ⟨List.length_replicate, fun h => nomatch h⟩
theorem witness_InputNeverWritten : ∃ t, step busy = .next t ∧ busy.bufs ≠ [] := ⟨_, rfl, by decide⟩

/-- LV.RECON of Y1 into the image, clamped to 8 bits: a sample changes. -/
def imaging : State := setInbox
  [.unit 0x56 { Ports.zero with lv := lv01, sink := .image 0, clampToUnsigned := true }] (level 15)

theorem witness_DestinationSafety :
    storageWf imaging ∧ (after (step imaging)).map (fun t =>
      decide (cellRead t.dest (destKey 0 1 1) ≠ cellRead imaging.dest (destKey 0 1 1))) = some true := by
  decide +kernel
theorem witness_MaskMonotonic :
    ∃ t, exec (.lvSetValid lv01 1) (level 1) = .next t ∧ (levelAt (level 1) 0 1).init = true ∧
      validBit (levelAt (level 1) 0 1) 0 = true ∧ Instr.lvSetValid lv01 1 ≠ .reset ∧
      ∀ lv, Instr.lvSetValid lv01 1 = .lvClear lv → ¬(lv.c.toNat = 0 ∧ lv.l.toNat = 1) :=
  ⟨_, rfl, by decide, by decide, by decide, fun _ h => nomatch h⟩
theorem witness_RegisterWriters : ∃ t, exec (.config 3 2 15) (reading [] 0) = .next t := ⟨_, rfl⟩

theorem witness_ConfigResult :
    State.reset.sess ≠ .ready ∧ (reading [] 0).sess = .ready ∧ 2 < (3#2).toNat ∧ (2#2).toNat ≤ 2 := by decide
theorem witness_ResetCommand :
    ∃ t, exec .status faulted = .next t ∧ Instr.status ≠ .reset ∧ faulted.sess = .faulted := ⟨_, rfl, by decide, rfl⟩
theorem witness_DecodeCompletes :
    decodeReady smallStream ⟨⟨0, 51⟩, ⟨0, 4, 4, 16⟩⟩ 2 2 head smallTokens :=
  ⟨by decide, by decide +kernel, by decide +kernel, by decide +kernel, by decide +kernel, by decide +kernel,
    by decide +kernel, by decide, by decide, ⟨List.replicate 7 false, by decide +kernel⟩⟩
theorem witness_DecodeImage : 0 < head.fields.numChannels.toNat ∧ 1 < planeWidth head.fields ∧
    1 < planeHeight head.fields := by decide
theorem witness_AlwaysAnswers : (level 5).sess = .ready := rfl
theorem witness_DecodeCauses :
    levelsReset smallStream ∧ tableLegal smallStream ∧ smallStream.sess = .ready ∧ boundLegal smallStream = true := by
  decide +kernel
/-- OFFX = 3 with a 2 by 2 image on the 4 by 4 destination. -/
theorem witness_DecodeCauses_region :
    smallStream.binding = some ⟨⟨0, 51⟩, ⟨0, 4, 4, 16⟩⟩ ∧ headerLegal head 16 ∧
      streamRest smallStream = headerBits head ++ (streamRest smallStream).drop 384 ∧
      (4#16).toNat < (3#16).toNat + head.fields.imageWidth.toNat := by decide +kernel
theorem witness_DecodeCauses_only : smallStream.sess = .ready ∧ (after (exec (.decode 3 0) smallStream)).map
    (fun t => (t.sess, t.err.cause)) = some (.faulted, causeCode .destRegion) := by decide +kernel
theorem witness_BitReadResult : (reading [0xA5] 0).binding = some ⟨⟨0, 1⟩, ⟨0, 4, 4, 16⟩⟩ := rfl
theorem witness_TokenRead :
    streamRest (reading [0x00, 0x0F, 0xFF, 0x80, 0x07, 0xFF, 0xE0] 0) =
      tokenBits 8190 (-8190) ++ List.replicate 5 false ∧ (0 : Nat) + (tokenBits 8190 (-8190)).length ≤ 56 := by
  decide +kernel
theorem witness_TokenTraps_run :
    streamRest (reading [0x00, 0x04] 0) = List.replicate 13 false ++ [true, false, false] := by decide +kernel
theorem witness_TokenTraps_magnitude :
    streamRest (reading [0x80, 0x01] 0) = valueBits 0 ++ List.replicate 13 false ++ [false, true] := by
  decide +kernel
/-- (3, 7) is 00100 0001000 0; cut in the first suffix, before the second 1, in the second suffix, before the sign. -/
theorem witness_TokenTraps_cut :
    8 < (tokenBits 3 7).length ∧ streamRest (reading [0x20] 0) = (tokenBits 3 7).take 8 ∧
      streamRest (reading [0x20] 8) = (tokenBits 0 0).take 0 ∧ (tokenBits 3 7).length = 13 ∧
      (tokenCut 3 7 4, tokenCut 3 7 8, tokenCut 3 7 11, tokenCut 3 7 12) = (3, 8, 9, 12) := by decide +kernel
theorem witness_CodeWordResult :
    encode .ueZ0 = .stream .ue (valueBits 0) ∧ encode (.ueZ12 4095) = .stream .ue (valueBits 8190) ∧
      (7 : Nat) + (valueBits 8190).length ≤ streamEnd (reading [0, 0, 0, 0] 7) ∧
      (3 : Nat) + 13 ≤ streamEnd (reading [0, 0] 3) := by decide +kernel
theorem witness_StreamWordsAct :
    decodeStream .hdr (streamRest (reading headBytes 0)) = .ok (.hdr head, []) ∧
      decodeStream .ue (streamRest (reading [0x00, 0x04] 0)) = .ok (.ueMalformed, [true, false, false]) ∧
      decodeStream .tok (streamRest (reading [0xC0] 0)) = .ok (.tok 0 0, List.replicate 6 false) := by
  decide +kernel
theorem witness_LogDecodeResult : tableLegal State.reset := by decide +kernel

theorem witness_PlaneCreateResult : (0 : U16) = 0 ∧ (1 : U16) ≠ 0 ∧ (65535 : U16) ≠ 0 := by decide
theorem witness_PlaneClearResult :
    dangling planes goneP ∧ dangling planes Plane.null ∧ storageWf planes ∧ planeLegal planes planeP ∧
      planeLegal planes viewV := by decide +kernel
theorem witness_PlaneReadResult :
    dangling planes goneP ∧ ¬dangling planes viewV ∧ viewV.width ≤ 2#16 ∧ viewV.height ≤ 2#16 ∧
      planeLegal planes viewV ∧ viewV.buf = some 5 ∧ 1#16 < viewV.width ∧ 1#16 < viewV.height := by decide
theorem witness_PlaneWriteResult :
    dangling planes goneP ∧ ¬dangling planes viewV ∧ viewV.width ≤ 2#16 ∧ storageWf planes ∧
      planeLegal planes viewV ∧ viewV.buf = some 5 ∧ 1#16 < viewV.width ∧ 1#16 < viewV.height := by decide +kernel
theorem witness_PlaneViewResult :
    planeLegal planes planeP ∧ (2#16 : U16) ≠ 0 ∧ (1#16).toNat + (2#16).toNat ≤ planeP.width.toNat ∧
      (0#16).toNat + (2#16).toNat ≤ planeP.height.toNat := by decide
theorem witness_LevelInitResult :
    3 < (4#8).toNat ∧ 2 < (3#8).toNat ∧ (3#8).toNat ≤ 3 ∧ (2#8).toNat ≤ 2 ∧ (levelAt (level 0) 0 1).init = true ∧
      (levelAt (level 0) 3 2).init = false ∧ (0 < 1 ∨ 4 < 0) ∧ (5 < 1 ∨ 4 < 5) ∧ 1 ≤ 4 ∧ 4 ≤ 4 ∧
      (1#16 : U16) ≠ 0 ∧ (65535#16 : U16) ≠ 0 := by decide
theorem witness_LevelClearResult :
    3 < (4#8).toNat ∧ 2 < (3#8).toNat ∧ lv01.c.toNat ≤ 3 ∧ lv01.l.toNat ≤ 2 ∧
      (levelAt (level 15) 0 1).init = true ∧ 3 < (levelAt (level 15) 0 1).numBands.toNat ∧
      (bandAt (levelAt (level 15) 0 1) 3).plane.buf = some 3 := by decide
theorem witness_SetValidResult :
    bandReady (level 1) lv01 3 ∧ lv01.c.toNat ≤ 3 ∧ lv01.l.toNat ≤ 2 ∧ (levelAt State.reset 0 1).init = false ∧
      (levelAt (level 1) 0 1).numBands.toNat ≤ (4#8).toNat := by decide
theorem witness_MaskReadResult : levelLegal (level 15) (levelAt (level 15) 0 1) ∧
    levelLegal (level 7) (levelAt (level 7) 0 1) := by decide +kernel
theorem witness_BandPlaneResult :
    bandReady (level 0) lv01 0 ∧ bandReady (level 0) lv01 3 ∧ levelLegal (level 0) (levelAt (level 0) 0 1) ∧
      (levelAt State.reset 0 1).init = false ∧ (levelAt (level 0) 0 1).numBands.toNat ≤ (4#8).toNat := by
  decide +kernel
theorem witness_DequantResult_traps :
    dangling planes goneP ∧ ¬dangling planes planeP ∧ ¬dangling planes viewV ∧ planeP.width ≠ viewV.width := by
  decide
theorem witness_DequantResult :
    storageWf planes ∧ planeLegal planes viewV ∧ planeLegal planes ⟨some 5, 0, 2, 2, 3, false, 0⟩ ∧
      viewV.width = 2 ∧ viewV.height = 2 ∧ viewV.buf = some 5 ∧
      (∀ x < viewV.width.toNat, ∀ y < viewV.height.toNat, planeAddr viewV x y = planeAddr viewV x y) := by
  decide +kernel
theorem witness_ReconPlaneResult :
    storageWf (level 15) ∧ lv01.c.toNat ≤ 3 ∧ lv01.l.toNat ≤ 2 ∧
      levelLegal (level 15) (levelAt (level 15) 0 1) ∧
      allValid (levelAt (level 15) 0 1) = true ∧ planeLegal (level 15) sinkP ∧
      sinkP.width.toNat = 2 * (levelAt (level 15) 0 1).width.toNat ∧
      sinkP.height.toNat = 2 * (levelAt (level 15) 0 1).height.toNat := by decide +kernel
theorem witness_ReconImageResult :
    storageWf (level 15) ∧ lv01.c.toNat ≤ 3 ∧ lv01.l.toNat ≤ 2 ∧
      levelLegal (level 15) (levelAt (level 15) 0 1) ∧ allValid (levelAt (level 15) 0 1) = true ∧
      (level 15).binding = some ⟨⟨0, 0⟩, ⟨0, 3, 3, 16⟩⟩ ∧ 1 ≤ (level 15).hdr.patternWidth.toNat ∧
      1 ≤ (level 15).hdr.patternHeight.toNat ∧
      (0#8).toNat < (level 15).hdr.patternWidth.toNat * (level 15).hdr.patternHeight.toNat ∧
      (level 15).hdr.bitsPerComponent.toNat ≤ 16 ∧
      2 * (levelAt (level 15) 0 1).width.toNat = channelWidth (level 15) ∧
      2 * (levelAt (level 15) 0 1).height.toNat = channelHeight (level 15) ∧
      (level 15).offx.toNat + (level 15).hdr.imageWidth.toNat ≤ (3#16).toNat ∧
      (level 15).offy.toNat + (level 15).hdr.imageHeight.toNat ≤ (3#16).toNat ∧
      destWritable (level 15) (destX (level 15) 0 1) (destY (level 15) 0 1) ∧
      ¬destWritable (level 15) (destX (level 15) 1 1) (destY (level 15) 1 1) := by decide +kernel
theorem witness_ReconChecks :
    allValid (levelAt (level 7) 0 1) = false ∧ allValid (levelAt State.reset 0 2) = false ∧
      allValid (levelAt (level 15) 0 1) = true ∧ dangling (level 15) goneP ∧
      ¬dangling (level 15) (oneBand 0).plane ∧
      (oneBand 0).plane.width.toNat ≠ 2 * (levelAt (level 15) 0 1).width.toNat ∧
      1 ≤ (level 15).hdr.patternWidth.toNat := by decide +kernel
theorem witness_ReconChecks_image :
    allValid (levelAt (setHdr { head.fields with imageWidth := 4 } (level 15)) 0 1) = true ∧
      2 * (levelAt (setHdr { head.fields with imageWidth := 4 } (level 15)) 0 1).width.toNat ≠
        channelWidth (setHdr { head.fields with imageWidth := 4 } (level 15)) := by decide
theorem witness_ReconChecks_all : ∃ t, exec (.lvRecon lv01 (.plane shortP) 0 false) (level 15) = .next t := ⟨_, rfl⟩
/-- A descriptor of two rows on a buffer of six elements that would need eight. -/
def forgedP : Plane := ⟨some 5, 2, 3, 2, 3, false, 0⟩

theorem witness_OutsideAccess :
    ¬dangling planes forgedP ∧ 2#16 < forgedP.width ∧ 1#16 < forgedP.height ∧ storageWf planes ∧
      planeLen planes forgedP ≤ planeAddr forgedP 2 1 ∧ planeP.width = forgedP.width ∧
      planeP.height = forgedP.height ∧ ¬dangling planes planeP := by decide +kernel
/-- Element (1, 1) is the first of it past the buffer of six. -/
theorem witness_OutsideAccess_first :
    firstOutside forgedP.width.toNat forgedP.height.toNat 1 1
      (fun x y => planeLen planes forgedP ≤ planeAddr forgedP x y) := by
  refine ⟨by decide, by decide, by decide, fun x' y' hx hy => ?_⟩
  have hx : x' < 3 := hx
  show ¬6 ≤ 2 + y' * 3 + x'
  omega
/-- The same element stops LV.DEQUANT from the whole plane into the forged one. -/
theorem witness_OutsideAccess_dequant :
    planeP.buf = some 5 ∧ forgedP.buf = some 5 ∧
      firstOutside planeP.width.toNat planeP.height.toNat 1 1
        (fun x y => planeLen planes planeP ≤ planeAddr planeP x y ∨
          planeLen planes forgedP ≤ planeAddr forgedP x y) := by
  refine ⟨rfl, rfl, by decide, by decide, by decide, fun x' y' hx hy => ?_⟩
  have hx : x' < 3 := hx
  show ¬(6 ≤ 0 + y' * 3 + x' ∨ 6 ≤ 2 + y' * 3 + x')
  omega
theorem witness_OutsideAccess_sink :
    allValid (levelAt (level 15) 0 1) = true ∧ ¬dangling (level 15) shortP ∧
      shortP.width.toNat = 2 * (levelAt (level 15) 0 1).width.toNat ∧
      shortP.height.toNat = 2 * (levelAt (level 15) 0 1).height.toNat ∧
      firstOutside shortP.width.toNat shortP.height.toNat 1 1
        (fun x y => planeLen (level 15) shortP ≤ planeAddr shortP x y) := by
  refine ⟨by decide, by decide, by decide, by decide, by decide, by decide, by decide, fun x' y' hx hy => ?_⟩
  have hx : x' < 2 := hx
  show ¬4 ≤ 1 + y' * 2 + x'
  omega
theorem witness_DeadStaysDead :
    goneP.epoch ≤ planes.epoch ∧ 4 < planes.nextBuf ∧ dangling planes goneP ∧
      ∃ t, exec .reset planes = .next t ∧ ∃ t, exec (.plClear viewV) planes = .next t :=
  ⟨by decide, by decide, by decide, _, rfl, _, rfl⟩
/-- The image of vector Y1. -/
def imageY1 (X Y : Nat) : Int := if Y = 0 then (if X = 0 then 10 else 5) else (if X = 0 then 14 else 12)

theorem witness_LosslessRoundTrip :
    storageWf (level 15) ∧ lv01.c.toNat ≤ 3 ∧ lv01.l.toNat ≤ 2 ∧
      levelLegal (level 15) (levelAt (level 15) 0 1) ∧ allValid (levelAt (level 15) 0 1) = true ∧
      planeLegal (level 15) sinkP ∧ sinkP.width.toNat = 2 * (levelAt (level 15) 0 1).width.toNat ∧
      sinkP.height.toNat = 2 * (levelAt (level 15) 0 1).height.toNat ∧
      ∀ k < 4, ∀ x < (levelAt (level 15) 0 1).width.toNat, ∀ y < (levelAt (level 15) 0 1).height.toNat,
        bandValue (level 15) (levelAt (level 15) 0 1) k x y = fwdBand imageY1 1 1 k x y := by decide +kernel
theorem witness_HeaderParsed :
    (reading headBytes 0).binding = some ⟨⟨0, 48⟩, ⟨0, 4, 4, 16⟩⟩ ∧ headerLegal head 16 ∧ headerLegal head 12 ∧
      streamRest (reading headBytes 0) = headerBits head ++ [] ∧
      (0 : Nat) + (320 + 16 * head.fields.numSubbands.toNat) ≤ streamEnd (reading headBytes 0) := by
  decide +kernel
theorem witness_HeaderTraps_first :
    (reading [0, 5] 0).binding = some ⟨⟨0, 2⟩, ⟨0, 4, 4, 16⟩⟩ ∧
      headerFault { head.fields with numChannels := 5, numWavelets := 9 } 16 = some (1, .channelCount, 5) ∧
      streamRest (reading [0, 5] 0) =
        (headerBits { head with fields := { head.fields with numChannels := 5, numWavelets := 9 } }).take (16 * 1) ++
          [] := by decide +kernel
theorem witness_HeaderTraps_last :
    (reading (headBytes.take 19 ++ [17]) 0).binding = some ⟨⟨0, 20⟩, ⟨0, 4, 4, 16⟩⟩ ∧
      headerFault { head.fields with lowpassPrecision := 17 } 16 = some (10, .lowpassPrecision, 17) ∧
      headerFault head.fields 11 = some (9, .bitsPerComponent, 12) ∧
      streamRest (reading (headBytes.take 19 ++ [17]) 0) =
        (headerBits { head with fields := { head.fields with lowpassPrecision := 17 } }).take (16 * 10) ++ [] := by
  decide +kernel
/-- Cut after 15 bits (vector H30's kind), in the identifier, in the sequence number and in the quantization entries. -/
theorem witness_HeaderTraps_cut :
    (reading [0] 0).binding = some ⟨⟨0, 1⟩, ⟨0, 4, 4, 16⟩⟩ ∧ head.wf ∧ 8 < (headerBits head).length ∧
      headerFault head.fields 16 = none ∧ streamRest (reading [0] 0) = (headerBits head).take 8 ∧
      (headerCut 15, headerCut 175, headerCut 319, headerCut 383) = (0, 168, 288, 368) := by decide +kernel
theorem witness_BandFillResult :
    storageWf (filling [0x46, 0x28]) ∧ tableLegal (filling [0x46, 0x28]) ∧
      bandReady (filling [0x46, 0x28]) lv01 3 ∧
      levelLegal (filling [0x46, 0x28]) (levelAt (filling [0x46, 0x28]) 0 1) ∧
      (bandAt (levelAt (filling [0x46, 0x28]) 0 1) 3).plane.buf = some 3 ∧
      (∀ t ∈ [(1, 5), (1, (0 : Int))], tokenLegal t) ∧
      (bandCoefs [(1, 5), (1, 0)]).length =
        (levelAt (filling [0x46, 0x28]) 0 1).width.toNat * (levelAt (filling [0x46, 0x28]) 0 1).height.toNat ∧
      streamRest (filling [0x46, 0x28]) = tokensBits [(1, 5), (1, 0)] ++ List.replicate 3 false := by
  decide +kernel
theorem witness_BandFillTraps :
    fillReady (filling [0x46, 0x6A]) lv01 3 3 [(1, 5), (0, 0)] ∧
      2 * 2 < (bandCoefs [(1, 5), (0, 0)]).length + 1 + 1 ∧
      streamRest (filling [0x46, 0x6A]) = tokensBits [(1, 5), (0, 0)] ++ tokenBits 1 0 ++ [false] := by
  decide +kernel
theorem witness_BandFillTraps_checks :
    3 < (4#8).toNat ∧ (levelAt State.reset 0 1).init = false ∧ (levelAt (filling []) 0 1).init = true ∧
      (levelAt (filling []) 0 1).numBands.toNat ≤ (4#8).toNat := by decide
theorem witness_BandFillTraps_cut :
    fillReady (filling [0x46]) lv01 0 0 [] ∧ streamRest (filling [0x46]) = tokensBits [] ++ (tokenBits 1 5).take 8 ∧
      8 < (tokenBits 1 5).length ∧ tokenCut 1 5 8 = 8 := by decide +kernel
theorem witness_BandFillTraps_index :
    fillReady (filling [0x20, 0x00, 0x40, 0x06]) lv01 3 3 [] ∧ (bandCoefs []).length + 3 + 1 ≤ 2 * 2 ∧
      4095 < Int.natAbs (-4096) ∧ Int.natAbs (-4096) ≤ 8190 ∧
      streamRest (filling [0x20, 0x00, 0x40, 0x06]) = tokensBits [] ++ tokenBits 3 (-4096) ++ [false] := by
  decide +kernel
end Sys2Proof.Tests
end

section
/-! SUPPORT. What an operation writes: the single writes an instruction is made of, each with the piece of state it
writes; that every operation is a run of writes to the pieces it is listed with, ended by at most one error; and what
such a run leaves alone. -/

namespace Sys2Proof.Machine

/-! ## Writes and runs of writes -/

/-- The pieces of state written apart from each other. BUF has three: one element changes, a buffer is made, buffers
go. CONSTRUCT and RESET write a piece no other instruction does and are not in the list. -/
inductive Piece where
  | pos
  | seq
  | hdr
  | logt
  | element
  | create
  | drop
  | dest
  | level
  | prescale
  | offsets
  | sess

/-- The single writes, each with what holds where the machine makes it. -/
inductive Write : Piece → State → State → Prop
  | pos (s : State) (n : Nat) (h : s.pos + n ≤ streamEnd s) : Write .pos s (setPos (s.pos + n) s)
  | seq (s : State) (x : Seq) : Write .seq s (setSeq x s)
  | hdr (s : State) (h : HdrFields) : Write .hdr s (setHdr h s)
  | quant (s : State) (i : Nat) (q : U16) : Write .hdr s (setQuant i q s)
  | logt (s : State) : Write .logt s (setLogt logTable s)
  | element (s : State) (id e : Nat) (b : Buffer) (v : Coef) (hb : bufFind s.bufs id = some b) (he : e < b.len) :
    Write .element s (setBufs (bufPut s.bufs id ⟨b.len, cellWrite b.cells e v⟩) s)
  | create (s : State) (len : Nat) :
    Write .create s (setNextBuf (s.nextBuf + 1) (setBufs (bufPut s.bufs s.nextBuf ⟨len, []⟩) s))
  | drop (s : State) (ids : List Nat) : Write .drop s (setBufs (ids.foldl bufDrop s.bufs) s)
  | dest (s : State) (key : Nat) (v : U16) : Write .dest s (setDest (cellWrite s.dest key v) s)
  | level (s : State) (c l : Nat) (lev : Level) : Write .level s (setLevel c l lev s)
  | prescale (s : State) (c l : Nat) (p : BitVec 4) : Write .prescale s (setPrescale c l p s)
  | offsets (s : State) (x y : U16) : Write .offsets s (setOffsets x y s)
  | sess (s : State) (x : Sess) : Write .sess s (setSess x s)

/-- A run of writes to the pieces in `W`. -/
abbrev Path (W : List Piece) : State → State → Prop := Relation.ReflTransGen fun s t => ∃ k ∈ W, Write k s t

variable {W W' : List Piece} {s t u : State} {α β : Type}

theorem Write.path {k : Piece} (h : Write k s t) (hk : k ∈ W) : Path W s t := .single ⟨k, hk, h⟩

theorem Path.mono (h : Path W s t) (hW : W ⊆ W') : Path W' s t :=
  Relation.ReflTransGen.mono (fun _ _ ⟨k, hk, hw⟩ => ⟨k, hW hk, hw⟩) _ _ h

/-- A property that every write to a piece of `W` keeps holds after a run of them. -/
theorem Path.keeps {I : State → Prop} (hI : ∀ k ∈ W, ∀ a b, Write k a b → I a → I b) (h : Path W s t) (hs : I s) :
    I t := by
  induction h with
  | refl => exact hs
  | tail _ hstep ih =>
    obtain ⟨k, hk, hw⟩ := hstep
    exact hI k hk _ _ hw ih

/-! ## Operations as runs of writes -/

/-- A run of writes from `s`, and, where the operation stopped, one error taken after it. -/
def Ends (W : List Piece) (s : State) : EStateM.Result Stop State α → Prop
  | .ok _ t => Path W s t
  | .error _ t => ∃ u c info, Path W s u ∧ t = takeError c info u

/-- The operation writes only the pieces in `W`, and takes an error only as the last thing it does. -/
def Within (W : List Piece) (op : Op α) : Prop := ∀ s, Ends W s (op s)

theorem Within.ok {op : Op α} (h : Within W op) {a : α} (ho : op s = .ok a t) : Path W s t := by
  have := h s
  rwa [ho] at this

theorem Within.error {op : Op α} (h : Within W op) {e : Stop} (ho : op s = .error e t) :
    ∃ u c info, Path W s u ∧ t = takeError c info u := by
  have := h s
  rwa [ho] at this

theorem Ends.trans {r : EStateM.Result Stop State α} (hp : Path W s u) (h : Ends W u r) : Ends W s r := by
  cases r with
  | ok a t => exact Relation.ReflTransGen.trans hp h
  | error e t =>
    obtain ⟨v, c, info, hv, ht⟩ := h
    exact ⟨v, c, info, hp.trans hv, ht⟩

theorem Within.mono {op : Op α} (h : Within W op) (hW : W ⊆ W') : Within W' op := by
  intro s
  cases ho : op s with
  | ok a t => exact (h.ok ho).mono hW
  | error e t =>
    obtain ⟨u, c, info, hp, ht⟩ := h.error ho
    exact ⟨u, c, info, hp.mono hW, ht⟩

theorem within_pure (a : α) : Within W (pure a : Op α) := fun _ => .refl
theorem within_get : Within W (get : Op State) := fun _ => .refl
theorem within_raise (c : Cause) (info : Nat) : Within W (raise c info : Op α) := fun s => ⟨s, c, info, .refl, rfl⟩

theorem within_modify {f : State → State} (h : ∀ s, Path W s (f s)) : Within W (modify f : Op PUnit) := h

theorem within_failIf (p : Prop) [Decidable p] (c : Cause) (info : Nat) : Within W (failIf p c info) := by
  unfold failIf
  split
  · exact within_raise _ _
  · exact within_pure _

/-- Two parts in sequence, where the second may count on what the first answered. -/
theorem within_bind_of_ok {x : Op α} {f : α → Op β} (hx : Within W x)
    (hf : ∀ s a u, x s = .ok a u → Ends W u (f a u)) : Within W (x >>= f) := by
  intro s
  rw [op_bind]
  cases hxs : x s with
  | ok a u => exact (hf s a u hxs).trans (hx.ok hxs)
  | error e u => exact hx.error hxs

theorem within_bind {x : Op α} {f : α → Op β} (hx : Within W x) (hf : ∀ a, Within W (f a)) : Within W (x >>= f) :=
  within_bind_of_ok hx fun _ a u _ => hf a u

theorem within_forFrom {f : Nat → Op Unit} (hf : ∀ i, Within W (f i)) (start n : Nat) :
    Within W (forFrom start n f) := by
  induction n generalizing start with
  | zero => exact within_pure _
  | succ n ih => exact within_bind (hf start) fun _ => ih (start + 1)

theorem within_mapFrom {f : Nat → Op α} (hf : ∀ i, Within W (f i)) (start n : Nat) :
    Within W (mapFrom start n f) := by
  induction n generalizing start with
  | zero => exact within_pure _
  | succ n ih => exact within_bind (hf start) fun _ => within_bind (ih (start + 1)) fun _ => within_pure _

/-! ## Operations that write nothing -/

theorem within_bitPeek (n : Nat) : Within W (bitPeek n) :=
  within_bind within_get fun _ => within_bind (within_failIf _ _ _) fun _ =>
    within_bind (within_failIf _ _ _) fun _ => within_pure _

theorem within_checkDescriptor (p : Plane) : Within W (checkDescriptor p) := by
  refine within_bind within_get fun s => ?_
  cases liveBuffer s p with
  | none => exact within_raise _ _
  | some e => exact within_pure _

theorem within_checkAccess (p : Plane) (x y : Nat) : Within W (checkAccess p x y) :=
  within_bind (within_checkDescriptor p) fun e =>
    within_bind (within_failIf (x ≥ p.width.toNat ∨ y ≥ p.height.toNat ∨ e.2.len ≤ planeAddr p x y) _ _) fun _ =>
      within_pure _

theorem within_checkElements (p : Plane) : Within W (checkElements p) :=
  within_forFrom
    (fun y => within_forFrom (fun x => within_bind (within_checkAccess p x y) fun _ => within_pure _) _ _) _ _

theorem within_planeRead (p : Plane) (x y : Nat) : Within W (planeRead p x y) :=
  within_bind (within_checkAccess p x y) fun _ => within_pure _

theorem within_planeView (p : Plane) (x0 y0 w h : U16) : Within W (planeView p x0 y0 w h) :=
  within_bind (within_checkDescriptor p) fun _ => within_bind (within_failIf _ _ _) fun _ =>
    within_bind (within_failIf _ _ _) fun _ => within_pure _

theorem within_checkLevel (lv : LevelRef) : Within W (checkLevel lv) := within_failIf _ _ _

theorem within_fetchLevel (lv : LevelRef) : Within W (fetchLevel lv) :=
  within_bind (within_checkLevel lv) fun _ => within_bind within_get fun _ => within_pure _

theorem within_fetchBandLevel (lv : LevelRef) (b : Nat) : Within W (fetchBandLevel lv b) :=
  within_bind (within_fetchLevel lv) fun lev => within_bind (within_failIf (lev.init = false) _ _) fun _ =>
    within_bind (within_failIf (b ≥ lev.numBands.toNat) _ _) fun _ => within_pure _

theorem within_levelIsValid (lv : LevelRef) (b : Nat) : Within W (levelIsValid lv b) :=
  within_bind (within_fetchBandLevel lv b) fun _ => within_pure _

theorem within_levelAllValid (lv : LevelRef) : Within W (levelAllValid lv) :=
  within_bind (within_fetchLevel lv) fun _ => within_pure _

theorem within_levelBandPlane (lv : LevelRef) (b : Nat) : Within W (levelBandPlane lv b) :=
  within_bind (within_fetchBandLevel lv b) fun _ => within_planeView _ _ _ _ _

theorem within_bandFetch (lev : Level) (k x y : Nat) : Within W (bandFetch lev k x y) := by
  unfold bandFetch
  split
  · exact within_bind (within_planeRead _ _ _) fun _ => within_pure _
  · exact within_pure _

theorem within_bandLine (lev : Level) (k y : Nat) : Within W (bandLine lev k y) :=
  within_mapFrom (within_bandFetch lev k · y) _ _

theorem within_rowPair (lev : Level) (y : Nat) : Within W (rowPair lev y) :=
  within_bind (within_bandLine lev 0 y) fun _ => within_bind (within_bandLine lev 1 y) fun _ =>
    within_bind (within_bandLine lev 2 y) fun _ => within_bind (within_bandLine lev 3 y) fun _ => within_pure _

theorem within_synth2D (lev : Level) : Within W (synth2D lev) :=
  within_bind (within_mapFrom (within_rowPair lev) _ _) fun _ => within_pure _

theorem within_checkSink (dest : Sink) (w2 h2 : Nat) (clamp : Bool) : Within W (checkSink dest w2 h2 clamp) := by
  cases dest with
  | plane p =>
    exact within_bind (within_checkDescriptor p) fun _ => within_bind (within_failIf _ _ _) fun _ =>
      within_checkElements p
  | image c =>
    exact within_bind (within_failIf _ _ _) fun _ => within_bind within_get fun s =>
      within_failIf (w2 ≠ channelWidth s ∨ h2 ≠ channelHeight s) _ _

theorem within_checkDestRegion : Within W checkDestRegion :=
  within_bind within_get fun s =>
    within_failIf (s.offx.toNat + s.hdr.imageWidth.toNat > (boundDest s).w.toNat ∨
      s.offy.toNat + s.hdr.imageHeight.toNat > (boundDest s).h.toNat) _ _

/-! ## The bit reader: POS -/

section
variable (hp : Piece.pos ∈ W)
include hp

theorem within_takeBits (n : Nat) : Within W (takeBits n) := by
  intro s
  by_cases h : s.pos + n ≤ streamEnd s
  · rw [takeBits_fits h]
    exact (Write.pos s n h).path hp
  · rw [takeBits_overrun (by omega)]
    exact ⟨s, _, _, .refl, rfl⟩

theorem within_bitRead (n : Nat) : Within W (bitRead n) := by
  refine within_bind_of_ok (within_bitPeek n) fun s v u h => ?_
  obtain ⟨-, hfits, -, rfl⟩ := bitPeek_ok h
  exact (Write.pos u n hfits).path hp

theorem within_readZeros (left z : Nat) : Within W (readZeros left z) := by
  induction left generalizing z with
  | zero =>
    refine within_bind (within_bitRead hp 1) fun b => ?_
    by_cases hb : b = 0
    · simp only [if_pos hb]
      exact within_bind within_get fun _ => within_raise _ _
    · simp only [if_neg hb]
      exact within_pure _
  | succ left ih =>
    refine within_bind (within_bitRead hp 1) fun b => ?_
    by_cases hb : b = 0
    · simp only [if_pos hb]
      exact ih (z + 1)
    · simp only [if_neg hb]
      exact within_pure _

theorem within_readCode : Within W readCode :=
  within_bind (within_readZeros hp _ _) fun _ => within_bind (within_bitRead hp _) fun _ => within_pure _

theorem within_readToken : Within W readToken := by
  refine within_bind (within_readCode hp) fun run => within_bind (within_readCode hp) fun m => ?_
  by_cases hm : m = 0
  · simp only [if_pos hm]
    exact within_pure _
  · simp only [if_neg hm]
    exact within_bind (within_bitRead hp 1) fun _ => within_pure _

theorem within_takeSingles (n : Nat) : Within W (takeSingles n) := by
  induction n with
  | zero => exact within_pure _
  | succ n ih => exact within_bind (within_takeBits hp 1) fun _ => ih

theorem within_consumeCode (z suffix : Nat) : Within W (consumeCode z suffix) :=
  within_bind (within_takeSingles hp _) fun _ => within_bind (within_takeBits hp _) fun _ => within_pure _

theorem within_consumeToken (run : Nat) (value : Int) : Within W (consumeToken run value) := by
  refine within_bind (within_consumeCode hp _ _) fun r => within_bind (within_consumeCode hp _ _) fun m => ?_
  by_cases hm : m = 0
  · simp only [if_pos hm]
    exact within_pure _
  · simp only [if_neg hm]
    exact within_bind (within_takeBits hp 1) fun _ => within_pure _

theorem within_wordField (h : HeaderWord) (f : HdrField) : Within W (wordField h f) :=
  within_bind (within_takeBits hp _) fun _ => within_pure _

end

/-! ## The header: POS as its reader does, and the header registers -/

theorem within_updateHdr (hh : Piece.hdr ∈ W) (f : HdrFields → HdrFields) : Within W (updateHdr f) :=
  within_modify fun s => (Write.hdr s _).path hh

theorem within_parseHeader (hh : Piece.hdr ∈ W) {rd : HdrField → Op Nat} (hrd : ∀ f, Within W (rd f)) :
    Within W (parseHeader rd) := by
  unfold parseHeader
  repeat
    first
    | refine within_bind (hrd _) fun _ => ?_
    | refine within_bind (within_updateHdr hh _) fun _ => ?_
    | refine within_bind (within_failIf _ _ _) fun _ => ?_
    | refine within_bind within_get fun s => within_bind (within_failIf _ _ _) fun _ => ?_
    | refine within_bind (within_forFrom (fun _ => within_bind (hrd _) fun _ => within_updateHdr hh _) _ _) fun _ => ?_
  exact within_forFrom
    (fun _ => within_bind (hrd _) fun _ => within_modify fun s => (Write.quant s _ _).path hh) _ _

/-! ## The table, planes, levels and the destination -/

theorem within_ensureTable (ht : Piece.logt ∈ W) : Within W ensureTable := by
  intro s
  rw [ensureTable_eq]
  cases s.logtValid
  · exact (Write.logt s).path ht
  · exact .refl

theorem within_logDecode (ht : Piece.logt ∈ W) (v : Int) : Within W (logDecode v) :=
  within_bind (within_ensureTable ht) fun _ =>
    within_bind (within_failIf (v.natAbs > 4095) _ _) fun _ => within_bind within_get fun _ => within_pure _

theorem within_planeWrite (he : Piece.element ∈ W) (p : Plane) (x y : Nat) (v : Coef) :
    Within W (planeWrite p x y v) := by
  refine within_bind_of_ok (within_checkAccess p x y) fun s e u h => ?_
  obtain ⟨hl, -, -, ha, rfl⟩ := checkAccess_ok h
  obtain ⟨-, -, hb⟩ := liveBuffer_eq_some.mp hl
  exact (Write.element u _ _ _ v hb ha).path he

theorem within_planeClear (he : Piece.element ∈ W) (p : Plane) : Within W (planeClear p) :=
  within_bind (within_checkDescriptor p) fun _ =>
    within_forFrom (fun y => within_forFrom (within_planeWrite he p · y 0) _ _) _ _

theorem within_levelDequant (he : Piece.element ∈ W) (out inp : Plane) (quant : U16) :
    Within W (levelDequant out inp quant) :=
  within_bind (within_checkDescriptor out) fun _ => within_bind (within_checkDescriptor inp) fun _ =>
    within_bind (within_failIf _ _ _) fun _ => within_forFrom (fun y => within_forFrom
      (fun x => within_bind (within_planeRead inp x y) fun v => within_planeWrite he out x y (scaleCoef quant v)) _ _)
      _ _

theorem within_planeCreate (hc : Piece.create ∈ W) (width height : U16) : Within W (planeCreate width height) := by
  refine within_bind (within_failIf _ _ _) fun _ => ?_
  exact fun s => (Write.create s _).path hc

theorem within_storeLevel (hl : Piece.level ∈ W) (lv : LevelRef) (lev : Level) : Within W (storeLevel lv lev) :=
  within_modify fun s => (Write.level s _ _ _).path hl

theorem within_levelInit (hc : Piece.create ∈ W) (hl : Piece.level ∈ W) (lv : LevelRef) (width height : U16)
    (numBands : Nat) : Within W (levelInit lv width height numBands) :=
  within_bind (within_fetchLevel lv) fun lev => within_bind (within_failIf (lev.init = true) _ _) fun _ =>
    within_bind (within_failIf _ _ _) fun _ => within_bind (within_failIf _ _ _) fun _ =>
      within_bind (within_storeLevel hl _ _) fun _ => within_bind
        (within_forFrom (fun _ => within_bind (within_planeCreate hc _ _) fun _ =>
          within_modify fun s => (Write.level s _ _ _).path hl) _ _)
        fun _ => within_modify fun s => (Write.level s _ _ _).path hl

theorem within_levelClear (hd : Piece.drop ∈ W) (hl : Piece.level ∈ W) (lv : LevelRef) :
    Within W (levelClear lv) := by
  refine within_bind (within_fetchLevel lv) fun lev => within_bind ?_ fun _ => within_storeLevel hl _ _
  unfold dropBands
  split
  · exact within_modify fun s => (Write.drop s _).path hd
  · exact within_pure _

theorem within_levelSetValid (hl : Piece.level ∈ W) (lv : LevelRef) (b : Nat) : Within W (levelSetValid lv b) :=
  within_bind (within_fetchBandLevel lv b) fun _ => within_storeLevel hl _ _

theorem within_destWrite (hd : Piece.dest ∈ W) (c X Y : Nat) (v : Int) : Within W (destWrite c X Y v) := by
  intro s
  rcases destWrite_cases c X Y v s with ⟨b, -, -, -, -, h⟩ | ⟨-, h⟩
  · rw [h]
    exact (Write.dest s _ _).path hd
  · rw [h]
    exact .refl

theorem within_sinkWrite (he : Piece.element ∈ W) (hd : Piece.dest ∈ W) (dest : Sink) (X Y : Nat) (v : Int) :
    Within W (sinkWrite dest X Y v) := by
  cases dest with
  | plane p => exact within_planeWrite he _ _ _ _
  | image c => exact within_destWrite hd _ _ _ _

theorem within_levelRecon (he : Piece.element ∈ W) (hd : Piece.dest ∈ W) (lv : LevelRef) (dest : Sink)
    (prescale : BitVec 4) (clamp : Bool) : Within W (levelRecon lv dest prescale clamp) :=
  within_bind (within_fetchLevel lv) fun lev => within_bind (within_failIf (allValid lev = false) _ _) fun _ =>
    within_bind (within_checkSink _ _ _ _) fun _ => within_bind (within_synth2D lev) fun _ =>
      within_bind within_get fun _ =>
        within_forFrom (fun _ => within_forFrom (fun _ => within_sinkWrite he hd _ _ _ _) _ _) _ _

/-! ## The sequencer -/

/-- What BAND.FILL writes. -/
def fillPieces : List Piece := [.pos, .seq, .logt, .element, .level]

/-- What DECODE writes between its admission and its end. -/
def imagePieces : List Piece := [.pos, .seq, .hdr, .logt, .element, .create, .dest, .level]

theorem within_moveSeq (hs : Piece.seq ∈ W) (phase : Phase) (c l b : Nat) : Within W (moveSeq phase c l b) :=
  within_modify fun s => (Write.seq s _).path hs

theorem within_placeToken (p : Plane) (n idx : Nat) : Within fillPieces (placeToken p n idx) :=
  have he : Piece.element ∈ fillPieces := by simp [fillPieces]
  within_bind (within_readToken (by simp [fillPieces])) fun t =>
    within_bind (within_failIf (t.1 + 1 > n - idx) _ _) fun _ =>
      within_bind (within_forFrom (fun _ => within_planeWrite he _ _ _ _) _ _) fun _ =>
        within_bind (within_logDecode (by simp [fillPieces]) t.2) fun _ =>
          within_bind (within_planeWrite he _ _ _ _) fun _ =>
            within_bind (within_modify fun s => (Write.seq s _).path (by simp [fillPieces])) fun _ => within_pure _

theorem within_fillFrom (p : Plane) (n rounds idx : Nat) : Within fillPieces (fillFrom p n rounds idx) := by
  induction rounds generalizing idx with
  | zero => exact within_pure _
  | succ rounds ih =>
    unfold fillFrom
    split
    · exact within_bind (within_placeToken p n idx) ih
    · exact within_pure _

theorem within_fillBand (lv : LevelRef) (b : Nat) : Within fillPieces (fillBand lv b) :=
  within_bind (within_levelBandPlane lv b) fun _ => within_bind (within_fillFrom _ _ _ _) fun _ =>
    within_levelSetValid (by simp [fillPieces]) lv b

theorem within_ensureLevel (c l w h : Nat) : Within imagePieces (ensureLevel c l w h) := by
  refine within_bind within_get fun s => ?_
  split
  · exact within_pure _
  · exact within_levelInit (by simp [imagePieces]) (by simp [imagePieces]) _ _ _ _

theorem within_fillCodedBand (c l numLevels b : Nat) : Within imagePieces (fillCodedBand c l numLevels b) :=
  within_bind (within_moveSeq (by simp [imagePieces]) _ _ _ _) fun _ =>
    within_bind (within_modify fun s => (Write.level s _ _ _).path (by simp [imagePieces])) fun _ =>
      (within_fillBand _ _).mono (by simp [fillPieces, imagePieces])

theorem within_dequantBand (c l b : Nat) : Within imagePieces (dequantBand c l b) :=
  within_bind (within_levelBandPlane _ _) fun _ =>
    within_bind (within_moveSeq (by simp [imagePieces]) _ _ _ _) fun _ => within_bind within_get fun _ =>
      within_levelDequant (by simp [imagePieces]) _ _ _

theorem within_decodeLevel (c numLevels l : Nat) : Within imagePieces (decodeLevel c numLevels l) := by
  have hs : Piece.seq ∈ imagePieces := by simp [imagePieces]
  have hrecon := within_levelRecon (W := imagePieces) (by simp [imagePieces]) (by simp [imagePieces])
  refine within_bind within_get fun s => within_bind (within_ensureLevel _ _ _ _) fun _ =>
    within_bind (within_forFrom (within_fillCodedBand c l numLevels) _ _) fun _ =>
      within_bind (within_forFrom (within_dequantBand c l) _ _) fun _ => ?_
  by_cases hl : l = 0
  · simp only [if_pos hl]
    exact within_bind (within_moveSeq hs _ _ _ _) fun _ => hrecon _ _ _ _
  · simp only [if_neg hl]
    exact within_bind (within_ensureLevel _ _ _ _) fun _ => within_bind (within_levelBandPlane _ _) fun _ =>
      within_bind (within_moveSeq hs _ _ _ _) fun _ => within_bind (hrecon _ _ _ _) fun _ =>
        within_levelSetValid (by simp [imagePieces]) _ _

theorem within_decodeLevels (c numLevels k : Nat) : Within imagePieces (decodeLevels c numLevels k) := by
  induction k with
  | zero => exact within_pure _
  | succ k ih => exact within_bind (within_decodeLevel c numLevels k) fun _ => ih

theorem within_decodeChannel (c : Nat) : Within imagePieces (decodeChannel c) :=
  within_bind within_get fun _ => within_decodeLevels c _ _

/-- DECODE from the header on (`44_channel_orchestrator.md` R201), without its admission and without its last write. -/
def imageBody : Op Unit := do
  parseHeader readField
  checkDestRegion
  let s ← get
  forFrom 0 s.hdr.numChannels.toNat decodeChannel
  moveSeq .fin (s.hdr.numChannels.toNat - 1) 0 0

/-- The state in which an admitted DECODE starts to read. -/
def imageStart (x y : U16) (s : State) : State := setSeq Seq.reset (setOffsets x y (setSess .running s))

theorem decodeImage_eq (x y : U16) :
    decodeImage x y = (do
      let s ← get
      failIf (s.sess ≠ .ready) .sessionState (sessCode s.sess).toNat
      modify (imageStart x y)
      imageBody
      modify (setSess .done)) := by
  simp only [decodeImage, imageBody, bind_assoc]
  rfl

theorem within_imageBody : Within imagePieces imageBody :=
  within_bind (within_parseHeader (by simp [imagePieces]) fun _ => within_bitRead (by simp [imagePieces]) _) fun _ =>
    within_bind within_checkDestRegion fun _ => within_bind within_get fun _ =>
      within_bind (within_forFrom within_decodeChannel _ _) fun _ => within_moveSeq (by simp [imagePieces]) _ _ _ _

/-- What DECODE as a whole writes. -/
def decodePieces : List Piece := .offsets :: .sess :: imagePieces

theorem imageStart_path (x y : U16) (s : State) : Path decodePieces s (imageStart x y s) :=
  (((Write.sess s .running).path (by simp [decodePieces])).trans
    ((Write.offsets _ x y).path (by simp [decodePieces]))).trans
    ((Write.seq _ _).path (by simp [decodePieces, imagePieces]))

theorem within_decodeImage (x y : U16) : Within decodePieces (decodeImage x y) := by
  rw [decodeImage_eq]
  exact within_bind within_get fun s => within_bind (within_failIf (s.sess ≠ .ready) _ _) fun _ =>
    within_bind (within_modify (imageStart_path x y)) fun _ =>
      within_bind (within_imageBody.mono (by simp [decodePieces])) fun _ =>
        within_modify fun s => (Write.sess s _).path (by simp [decodePieces])

/-- DECODE out of READY raises SessionState; in READY it runs its body and, where that answers, ends in DONE. -/
theorem decodeImage_apply (x y : U16) (s : State) :
    decodeImage x y s =
      if s.sess = .ready then (imageBody >>= fun _ => modify (setSess .done)) (imageStart x y s)
      else .error .raised (takeError .sessionState (sessCode s.sess).toNat s) := by
  rw [decodeImage_eq, op_bind_of_ok (op_get s)]
  by_cases h : s.sess = .ready
  · rw [if_pos h, op_bind_of_ok (failIf_neg (not_not.mpr h) _ _ s), op_bind_of_ok (op_modify _ _)]
  · rw [if_neg h, op_bind_of_error (failIf_pos h _ _ s)]

end Sys2Proof.Machine
end

section
/-! SUPPORT. What every instruction writes, said once for all 44 rows, and the registers it therefore leaves alone. -/

namespace Sys2Proof.Machine

variable {W : List Piece} {s t u : State} {α : Type}

/-! ## What a run of writes leaves alone -/

/-- `t` differs from `s` in the pieces of `W`, and in SESS, ERR and the result ports, only; POS and NEXT_BUF did not
fall. -/
structure Frame (W : List Piece) (s t : State) : Prop where
  pos_le : s.pos ≤ t.pos
  nextBuf_le : s.nextBuf ≤ t.nextBuf
  binding : t.binding = s.binding
  mem : t.mem = s.mem
  inbox : t.inbox = s.inbox
  epoch : t.epoch = s.epoch
  pos : .pos ∉ W → t.pos = s.pos
  seq : .seq ∉ W → t.seq = s.seq
  hdr : .hdr ∉ W → t.hdr = s.hdr ∧ t.quant = s.quant
  logt : .logt ∉ W → t.logt = s.logt ∧ t.logtValid = s.logtValid
  offsets : .offsets ∉ W → t.offx = s.offx ∧ t.offy = s.offy
  dest : .dest ∉ W → t.dest = s.dest
  nextBuf : .create ∉ W → t.nextBuf = s.nextBuf
  bufs : .element ∉ W → .create ∉ W → .drop ∉ W → t.bufs = s.bufs
  bufIds : .create ∉ W → .drop ∉ W → ∀ id, (bufFind t.bufs id).isSome = (bufFind s.bufs id).isSome
  level : .level ∉ W → ∀ c l, levelAt t c l = levelAt s c l
  prescale : .prescale ∉ W → ∀ c l, prescaleAt t c l = prescaleAt s c l

theorem Frame.refl (s : State) : Frame W s s := by constructor <;> simp

/-- Putting an array under an id BUF has gives BUF no new id and takes none away. -/
theorem bufFind_bufPut_isSome {m : List (Nat × Buffer)} {id : Nat} {b : Buffer} (hb : bufFind m id = some b)
    (b' : Buffer) (id' : Nat) : (bufFind (bufPut m id b') id').isSome = (bufFind m id').isSome := by
  by_cases h : id' = id
  · subst h
    simp [hb]
  · rw [bufFind_bufPut_ne _ _ _ _ h]

theorem Frame.write {k : Piece} (h : Frame W s t) (hk : k ∈ W) (hw : Write k t u) : Frame W s u := by
  cases hw with
  | pos _ n hn => exact { h with pos_le := h.pos_le.trans (Nat.le_add_right t.pos n), pos := fun hn => absurd hk hn }
  | seq _ x => exact { h with seq := fun hn => absurd hk hn }
  | hdr _ x => exact { h with hdr := fun hn => absurd hk hn }
  | quant _ i q => exact { h with hdr := fun hn => absurd hk hn }
  | logt =>
    -- the unifier is not to evaluate the 4096 entries
    generalize logTable = table
    exact { h with logt := fun hn => absurd hk hn }
  | element _ id e b v hb he =>
    exact { h with
      bufs := fun hn => absurd hk hn
      bufIds := fun hc hd i => (bufFind_bufPut_isSome hb _ i).trans (h.bufIds hc hd i) }
  | create _ len =>
    exact { h with
      nextBuf_le := h.nextBuf_le.trans (Nat.le_succ _)
      nextBuf := fun hn => absurd hk hn
      bufs := fun _ hn => absurd hk hn
      bufIds := fun hn => absurd hk hn }
  | drop _ ids => exact { h with bufs := fun _ _ hn => absurd hk hn, bufIds := fun _ hn => absurd hk hn }
  | dest _ key v => exact { h with dest := fun hn => absurd hk hn }
  | level _ c l lev =>
    exact { h with
      level := fun hn => absurd hk hn
      prescale := fun hn c' l' => (prescaleAt_setLevel c l c' l' lev t).trans (h.prescale hn c' l') }
  | prescale _ c l p =>
    exact { h with
      prescale := fun hn => absurd hk hn
      level := fun hn c' l' => (levelAt_setPrescale c l c' l' p t).trans (h.level hn c' l') }
  | offsets _ x y => exact { h with offsets := fun hn => absurd hk hn }
  | sess _ x => exact { h with }

theorem Path.frame (h : Path W s t) : Frame W s t :=
  h.keeps (I := Frame W s) (fun _ hk _ _ hw hf => hf.write hk hw) (Frame.refl s)

/-- Without a write of SESS a run of writes leaves SESS and ERR alone. -/
theorem Path.session (h : Path W s t) (hW : .sess ∉ W) : t.sess = s.sess ∧ t.err = s.err := by
  refine h.keeps (I := fun a => a.sess = s.sess ∧ a.err = s.err) (fun k hk a b hw ha => ?_) ⟨rfl, rfl⟩
  cases hw with
  | sess _ x => exact absurd hk hW
  | logt =>
    generalize logTable = table
    exact ha
  | _ => exact ha

theorem Frame.takeError (h : Frame W s t) (c : Cause) (info : Nat) : Frame W s (takeError c info t) := by
  obtain ⟨e, x, he⟩ := takeError_rest c info t
  rw [he]
  exact { h with }

/-! ## Where an instruction ends -/

/-- The instruction made a run of writes to the pieces in `W`, then answered or took one error. -/
def Reaches (W : List Piece) (s t : State) : Prop :=
  ∃ u, Path W s u ∧ ((∃ r, t = setResult r u) ∨ ∃ c info, t = trapped c info u)

theorem Reaches.frame (h : Reaches W s t) : Frame W s t := by
  obtain ⟨u, hp, ⟨r, rfl⟩ | ⟨c, info, rfl⟩⟩ := h
  · exact { hp.frame with }
  · exact { hp.frame.takeError c info with }

/-- SESS and ERR stayed, or an error that R221 lists was taken where none was recorded. -/
def SessionEnd (s t : State) : Prop :=
  (t.sess = s.sess ∧ t.err = s.err) ∨ (s.sess ≠ .faulted ∧ t.sess = .faulted ∧ errListed t.err)

theorem mem_allCauses (c : Cause) : c ∈ allCauses := by cases c <;> decide

theorem sessionEnd_takeError (c : Cause) (info : Nat) (s : State) : SessionEnd s (takeError c info s) := by
  by_cases h : s.sess = .faulted
  · rw [takeError_faulted h]
    exact .inl ⟨rfl, rfl⟩
  · rw [takeError_eq h]
    exact .inr ⟨h, rfl, c, mem_allCauses c, rfl, rfl⟩

theorem SessionEnd.of_eq (h : SessionEnd s t) (hs : s.sess = u.sess) (he : s.err = u.err) : SessionEnd u t := by
  unfold SessionEnd at h ⊢
  rwa [hs, he] at h

theorem Reaches.session (h : Reaches W s t) (hW : .sess ∉ W) : SessionEnd s t := by
  obtain ⟨u, hp, ⟨r, rfl⟩ | ⟨c, info, rfl⟩⟩ := h
  · exact .inl (hp.session hW)
  · obtain ⟨hs, he⟩ := hp.session hW
    exact (sessionEnd_takeError c info u).of_eq hs he

theorem finish_reaches {op : Op Result} (hop : Within W op) (h : finish op s = .next t) : Reaches W s t := by
  rcases finish_next h with ⟨r, u, ho, rfl⟩ | ⟨u, ho, rfl⟩
  · exact ⟨u, hop.ok ho, .inl ⟨r, rfl⟩⟩
  · obtain ⟨v, c, info, hp, rfl⟩ := hop.error ho
    exact ⟨v, hp, .inr ⟨c, info, rfl⟩⟩

/-- An operation that answers `a`, from which the result ports show `r a`. -/
theorem finish_map_reaches {op : Op α} {r : α → Result} (hop : Within W op)
    (h : finish (op >>= fun a => pure (r a)) s = .next t) : Reaches W s t :=
  finish_reaches (within_bind hop fun _ => within_pure _) h

theorem finishUnit_reaches {op : Op Unit} (hop : Within W op) (h : finishUnit op s = .next t) : Reaches W s t :=
  finish_map_reaches hop h

theorem codeWord_reaches {z suffix : Nat} (h : codeWord z suffix s = .next t) : Reaches [.pos] s t :=
  finish_map_reaches (within_consumeCode (by simp) z suffix) h

/-- An operation that raised before it wrote anything. -/
theorem raised_reaches {op : Op Unit} {c : Cause} {info : Nat} (ho : op s = .error .raised (takeError c info s))
    (h : finishUnit op s = .next t) : Reaches [] s t := by
  rw [finishUnit_of_raised ho] at h
  cases h
  exact ⟨s, .refl, .inr ⟨c, info, rfl⟩⟩

/-! ## The host's commands -/

/-- What CONSTRUCT accepts as a destination (`44_channel_orchestrator.md` R193). -/
def destAccepted (d : DestHandle) : Prop := d.w ≠ 0 ∧ d.h ≠ 0 ∧ 1 ≤ d.depth ∧ d.depth ≤ 16

/-- CONSTRUCT's check of its destination passes exactly where the destination is accepted. -/
theorem destAccepted_iff {d : DestHandle} :
    destAccepted d ↔ ¬(d.w = 0 ∨ d.h = 0 ∨ d.depth < 1 ∨ d.depth > Config.destDepthMax) := by
  simp only [destAccepted, Config.destDepthMax, not_or, not_lt, gt_iff_lt, ne_eq]

/-- The state CONSTRUCT leaves where it succeeds (R193). -/
def constructed (input : InHandle) (dest : DestHandle) (s : State) : State :=
  setSess .ready (setPos 0 (setBinding (some ⟨input, dest⟩) s))

theorem exec_construct_cases {input : InHandle} {dest : DestHandle} (h : exec (.construct input dest) s = .next t) :
    (s.sess = .idle ∧ destAccepted dest ∧ t = setResult .none (constructed input dest s)) ∨ Reaches [] s t := by
  by_cases hs : s.sess = .idle
  · have hidle : ¬s.sess ≠ .idle := not_not.mpr hs
    by_cases hd : destAccepted dest
    · have hop : execConstruct input dest s = .next (setResult .none (constructed input dest s)) :=
        finishUnit_of_ok (by
          rw [op_bind_of_ok (failIf_neg hidle _ _ s), op_bind_of_ok (failIf_neg (destAccepted_iff.mp hd) _ _ s)]
          rfl)
      exact .inl ⟨hs, hd, Host.Outcome.next.inj (h.symm.trans hop)⟩
    · have hbad := not_not.mp (mt destAccepted_iff.mpr hd)
      exact .inr (raised_reaches
        ((op_bind_of_ok (failIf_neg hidle _ _ s)).trans (op_bind_of_error (failIf_pos hbad _ _ s))) h)
  · exact .inr (raised_reaches (op_bind_of_error (failIf_pos hs _ _ s)) h)

/-- RESET clears the levels without an error. -/
theorem clearLevels_answers (s : State) : ∃ t, clearLevels s = .ok () t ∧ Path [.drop, .level] s t := by
  have hlevel : ∀ c < 4, ∀ s, ∃ t, forFrom 0 3 (fun l => levelClear (levelRef c l)) s = .ok () t := by
    intro c hc s
    obtain ⟨t, ht, -⟩ := forFrom_ok (f := fun l => levelClear (levelRef c l)) (start := 0) (n := 3) (s := s)
      (fun _ _ => True) (fun l s hl _ => ⟨_, levelClear_legal (by simp [levelRef]; omega) (by simp [levelRef]; omega),
        trivial⟩) trivial
    exact ⟨t, ht⟩
  obtain ⟨t, ht, -⟩ := forFrom_ok (start := 0) (n := 4) (s := s)
    (f := fun c => forFrom 0 3 fun l => levelClear (levelRef c l)) (fun _ _ => True)
    (fun c s hc _ => by
      obtain ⟨t, ht⟩ := hlevel c hc s
      exact ⟨t, by simpa using ht, trivial⟩) trivial
  have hW : Within [.drop, .level] clearLevels :=
    within_forFrom (fun c => within_forFrom (fun l => within_levelClear (by simp) (by simp) (levelRef c l)) _ _) _ _
  exact ⟨t, ht, hW.ok ht⟩

/-- RESET always answers the reset state around the host's memory, samples and requests. -/
theorem exec_reset (s : State) : exec .reset s = .next (setResult .none (resetState s)) := by
  obtain ⟨u, hu, hp⟩ := clearLevels_answers s
  have hf := hp.frame
  have hreset : resetState u = resetState s := by
    simp [resetState, hf.mem, hf.inbox, hf.epoch, hf.dest]
  exact finishUnit_of_ok (by rw [op_bind_of_ok hu, op_modify, hreset])

/-- DECODE leaves the session as its error left it, or goes from READY to DONE with no error. -/
theorem exec_decode_session {x y : U16} (h : exec (.decode x y) s = .next t) :
    SessionEnd s t ∨ (s.sess = .ready ∧ t.sess = .done ∧ t.err = s.err) := by
  have hW : .sess ∉ imagePieces := by simp [imagePieces]
  by_cases hs : s.sess = .ready
  · have hop := decodeImage_apply x y s
    rw [if_pos hs] at hop
    cases hb : imageBody (imageStart x y s) with
    | ok a u =>
      rw [op_bind_of_ok hb] at hop
      obtain rfl : setResult .none (setSess .done u) = t :=
        Host.Outcome.next.inj ((finishUnit_of_ok hop).symm.trans h)
      exact .inr ⟨hs, rfl, ((within_imageBody.ok hb).session hW).2⟩
    | error e u =>
      rw [op_bind_of_error hb] at hop
      obtain rfl : setResult .none u = t := Host.Outcome.next.inj ((finishUnit_of_raised hop).symm.trans h)
      obtain ⟨v, c, info, hp, rfl⟩ := within_imageBody.error hb
      obtain ⟨hsess, -⟩ := hp.session hW
      have hrun : v.sess ≠ .faulted := by rw [hsess]; exact nofun
      rw [takeError_eq hrun]
      exact .inl (.inr ⟨by simp [hs], rfl, c, mem_allCauses c, rfl, rfl⟩)
  · have hop := decodeImage_apply x y s
    rw [if_neg hs] at hop
    exact .inl ((raised_reaches hop h).session List.not_mem_nil)

/-! ## All 44 rows -/

/-- The pieces an instruction may write; RESET and a CONSTRUCT that succeeds are not runs of these writes. -/
def writes : Instr → List Piece
  | .config _ _ _ => [.prescale]
  | .decode _ _ => decodePieces
  | .brRead _ | .rlvDecode => [.pos]
  | .logBuild | .logDecode _ => [.logt]
  | .plCreate _ _ => [.create]
  | .plClear _ | .plWrite _ _ _ _ | .lvDequant _ _ _ => [.element]
  | .lvInit _ _ _ _ => [.create, .level]
  | .lvClear _ => [.drop, .level]
  | .lvSetValid _ _ => [.level]
  | .lvRecon _ _ _ _ => [.element, .dest]
  | .hdrParse | .hdr _ => [.pos, .hdr]
  | .bandFill _ _ => fillPieces
  | .ueZ0 | .ueZ1 _ | .ueZ2 _ | .ueZ3 _ | .ueZ4 _ | .ueZ5 _ | .ueZ6 _ | .ueZ7 _ | .ueZ8 _ | .ueZ9 _ | .ueZ10 _
  | .ueZ11 _ | .ueZ12 _ | .ueMalformed | .tok _ _ => [.pos]
  | .reset | .construct _ _ | .status | .brPeek _ | .brAtEnd | .plRead _ _ _ | .plView _ _ _ _ _ | .lvIsValid _ _
  | .lvAllValid _ | .lvBandPlane _ _ | .ctLevel _ _ | .ctPrescale _ _ => []

/-- Every instruction but RESET and CONSTRUCT makes the writes it is listed with, and takes at most one error after
them. -/
theorem exec_reaches {i : Instr} (hr : i ≠ .reset) (hc : ∀ input dest, i ≠ .construct input dest)
    (h : exec i s = .next t) : Reaches (writes i) s t := by
  cases i with
  | reset => exact absurd rfl hr
  | construct input dest => exact absurd rfl (hc input dest)
  | config c l p =>
    exact finishUnit_reaches (within_bind (within_failIf _ _ _) fun _ => within_bind (within_failIf _ _ _) fun _ =>
      within_modify fun s => (Write.prescale s _ _ _).path List.mem_cons_self) h
  | decode x y => exact finishUnit_reaches (within_decodeImage x y) h
  | status => exact finish_reaches (within_pure _) h
  | brRead n => exact finish_map_reaches (within_bitRead List.mem_cons_self n) h
  | brPeek n => exact finish_map_reaches (within_bitPeek n) h
  | brAtEnd => exact finish_reaches (within_bind within_get fun _ => within_pure _) h
  | rlvDecode => exact finish_map_reaches (within_readToken List.mem_cons_self) h
  | logBuild => exact finishUnit_reaches (within_modify fun s => (Write.logt s).path List.mem_cons_self) h
  | logDecode v => exact finish_map_reaches (within_logDecode List.mem_cons_self _) h
  | plCreate w ht => exact finish_map_reaches (within_planeCreate List.mem_cons_self w ht) h
  | plClear p => exact finishUnit_reaches (within_planeClear List.mem_cons_self p) h
  | plRead p x y => exact finish_map_reaches (within_planeRead p _ _) h
  | plWrite p x y v => exact finishUnit_reaches (within_planeWrite List.mem_cons_self p _ _ v) h
  | plView p x0 y0 w ht => exact finish_map_reaches (within_planeView p x0 y0 w ht) h
  | lvInit lv w ht n =>
    exact finishUnit_reaches (within_levelInit List.mem_cons_self (.tail _ List.mem_cons_self) lv w ht n) h
  | lvClear lv => exact finishUnit_reaches (within_levelClear List.mem_cons_self (.tail _ List.mem_cons_self) lv) h
  | lvSetValid lv b => exact finishUnit_reaches (within_levelSetValid List.mem_cons_self lv _) h
  | lvIsValid lv b => exact finish_map_reaches (within_levelIsValid lv _) h
  | lvAllValid lv => exact finish_map_reaches (within_levelAllValid lv) h
  | lvDequant out inp q => exact finishUnit_reaches (within_levelDequant List.mem_cons_self out inp q) h
  | lvRecon lv dest p clamp =>
    exact finishUnit_reaches
      (within_levelRecon List.mem_cons_self (.tail _ List.mem_cons_self) lv dest p clamp) h
  | lvBandPlane lv b => exact finish_map_reaches (within_levelBandPlane lv _) h
  | ctLevel c l => exact finish_map_reaches (within_checkLevel ⟨c, l⟩) h
  | ctPrescale c l =>
    exact finish_reaches
      (within_bind (within_checkLevel ⟨c, l⟩) fun _ => within_bind within_get fun _ => within_pure _) h
  | hdrParse =>
    exact finishUnit_reaches
      (within_parseHeader (.tail _ List.mem_cons_self) fun _ => within_bitRead List.mem_cons_self _) h
  | bandFill lv b => exact finishUnit_reaches (within_fillBand lv _) h
  | hdr w =>
    exact finishUnit_reaches
      (within_parseHeader (.tail _ List.mem_cons_self) (within_wordField List.mem_cons_self w)) h
  | ueZ0 => exact codeWord_reaches h
  | ueZ1 _ => exact codeWord_reaches h
  | ueZ2 _ => exact codeWord_reaches h
  | ueZ3 _ => exact codeWord_reaches h
  | ueZ4 _ => exact codeWord_reaches h
  | ueZ5 _ => exact codeWord_reaches h
  | ueZ6 _ => exact codeWord_reaches h
  | ueZ7 _ => exact codeWord_reaches h
  | ueZ8 _ => exact codeWord_reaches h
  | ueZ9 _ => exact codeWord_reaches h
  | ueZ10 _ => exact codeWord_reaches h
  | ueZ11 _ => exact codeWord_reaches h
  | ueZ12 _ => exact codeWord_reaches h
  | ueMalformed =>
    exact finishUnit_reaches (within_bind (within_takeSingles List.mem_cons_self _) fun _ =>
      within_bind within_get fun _ => within_raise _ _) h
  | tok run v => exact finish_map_reaches (within_consumeToken List.mem_cons_self run v) h

/-- What one instruction can do: RESET and a CONSTRUCT that succeeds leave the two named states, and every other run
of an instruction makes the writes it is listed with. -/
theorem exec_cases {i : Instr} (h : exec i s = .next t) :
    (i = .reset ∧ t = setResult .none (resetState s)) ∨
    (∃ input dest, i = .construct input dest ∧ s.sess = .idle ∧ destAccepted dest ∧
      t = setResult .none (constructed input dest s)) ∨
    Reaches (writes i) s t := by
  by_cases hr : i = .reset
  · subst hr
    exact .inl ⟨rfl, Host.Outcome.next.inj (h.symm.trans (exec_reset s))⟩
  · by_cases hc : ∃ input dest, i = .construct input dest
    · obtain ⟨input, dest, rfl⟩ := hc
      rcases exec_construct_cases h with ⟨hs, hd, ht⟩ | hreach
      · exact .inr (.inl ⟨input, dest, rfl, hs, hd, ht⟩)
      · exact .inr (.inr hreach)
    · exact .inr (.inr (exec_reaches hr (fun input dest he => hc ⟨input, dest, he⟩) h))

/-- DECODE is the one run of writes that writes SESS. -/
theorem sess_not_mem_writes {i : Instr} (hi : ¬∃ x y, i = .decode x y) : .sess ∉ writes i := by
  cases i with
  | decode x y => exact absurd ⟨x, y, rfl⟩ hi
  | _ => simp [writes, fillPieces]

/-- What a run of writes does to SESS and ERR; a DECODE that completes is the one that goes to DONE. -/
theorem exec_session {i : Instr} (hr : Reaches (writes i) s t) (h : exec i s = .next t) :
    SessionEnd s t ∨ ((∃ x y, i = .decode x y) ∧ s.sess = .ready ∧ t.sess = .done ∧ t.err = s.err) := by
  by_cases hi : ∃ x y, i = .decode x y
  · obtain ⟨x, y, rfl⟩ := hi
    exact (exec_decode_session h).imp_right fun hd => ⟨⟨x, y, rfl⟩, hd⟩
  · exact .inl (hr.session (sess_not_mem_writes hi))

end Sys2Proof.Machine
end

section
/-! SUPPORT. What one step can do, the state after reset, and what a property needs to be kept by every step. -/

namespace Sys2Proof.Machine

variable {s t u : State}

/-! ## The step -/

theorem step_idle (h : s.inbox = []) : step s = .next s := by simp [step, h]

theorem step_request {r : Request} {rest : List Request} (h : s.inbox = r :: rest) :
    step s = runRequest r (setInbox rest s) := by simp [step, h]

theorem runHost_of_ok {code : BitVec 8} {ports : Ports} {i : Instr} (hc : code.toNat ≤ 4)
    (hd : decodeCommand code ports = .ok i) : runHost code ports s = exec i s := by
  have hm : hostMayIssue code = true := by simpa [hostMayIssue] using hc
  simp [runHost, hm, hd]

theorem runUnit_of_ok {code : BitVec 8} {ports : Ports} {i : Instr} (hd : decodeCommand code ports = .ok i) :
    runUnit code ports s = exec i s := by simp [runUnit, hd]

theorem runStream_of_ok {f : Format} {i : Instr} {after : List Bool}
    (hd : decodeStream f (streamRest s) = .ok (i, after)) : runStream f s = exec i s := by simp [runStream, hd]

theorem refuseCommand_reaches {code : BitVec 8} (h : refuseCommand code s = .next t) : Reaches [] s t :=
  finishUnit_reaches (within_raise _ _) h

theorem runDecoder_reaches {f : Format} (h : runDecoder f s = .next t) : Reaches [.pos, .hdr] s t := by
  cases f with
  | hdr =>
    exact finishUnit_reaches
      (within_parseHeader (.tail _ List.mem_cons_self) fun _ => within_bitRead List.mem_cons_self _) h
  | ue => exact finish_map_reaches (within_readCode List.mem_cons_self) h
  | tok => exact finish_map_reaches (within_readToken List.mem_cons_self) h

theorem Reaches.mono {W W' : List Piece} (h : Reaches W s t) (hW : W ⊆ W') : Reaches W' s t := by
  obtain ⟨u, hp, ht⟩ := h
  exact ⟨u, hp.mono hW, ht⟩

/-- A request runs an instruction, or, where it names none, moves POS and writes header registers at most. -/
theorem runRequest_cases {r : Request} (h : runRequest r s = .next t) :
    (∃ i, exec i s = .next t) ∨ Reaches [.pos, .hdr] s t := by
  have hrefuse {code : BitVec 8} (h : refuseCommand code s = .next t) : Reaches [.pos, .hdr] s t :=
    (refuseCommand_reaches h).mono (List.nil_subset _)
  cases r with
  | host code ports =>
    simp only [runRequest, runHost] at h
    split at h
    · split at h
      · exact .inl ⟨_, h⟩
      · exact .inr (hrefuse h)
    · exact .inr (hrefuse h)
  | unit code ports =>
    simp only [runRequest, runUnit] at h
    split at h
    · exact .inl ⟨_, h⟩
    · exact .inr (hrefuse h)
  | stream f =>
    simp only [runRequest, runStream] at h
    split at h
    · exact .inl ⟨_, h⟩
    · exact .inr (runDecoder_reaches h)

/-- A property that taking a request from the inbox, every instruction and the refusal of a request keep is kept by
every step. -/
theorem step_keeps {I : State → Prop} (hinbox : ∀ q s, I s → I (setInbox q s))
    (hexec : ∀ i s t, I s → exec i s = .next t → I t)
    (hrefuse : ∀ s t, I s → Reaches [.pos, .hdr] s t → I t) (hs : I s) (h : step s = .next t) : I t := by
  cases hq : s.inbox with
  | nil =>
    rw [step_idle hq] at h
    cases h
    exact hs
  | cons r rest =>
    rw [step_request hq] at h
    rcases runRequest_cases h with ⟨i, hi⟩ | hr
    · exact hexec i _ t (hinbox rest s hs) hi
    · exact hrefuse _ t (hinbox rest s hs) hr

/-- `I` is kept by every single write, by taking an error, and by what CONSTRUCT and RESET leave. -/
structure Invariant (I : State → Prop) : Prop where
  write : ∀ k s t, Write k s t → I s → I t
  takeError : ∀ c info s, I s → I (takeError c info s)
  setResult : ∀ r s, I s → I (setResult r s)
  setInbox : ∀ q s, I s → I (setInbox q s)
  constructed : ∀ input dest s, I s → I (constructed input dest s)
  resetState : ∀ s, I s → I (resetState s)

theorem Invariant.reaches {I : State → Prop} (hI : Invariant I) {W : List Piece} (h : Reaches W s t) (hs : I s) :
    I t := by
  obtain ⟨u, hp, ht⟩ := h
  have hu : I u := hp.keeps (fun k _ a b => hI.write k a b) hs
  obtain ⟨r, rfl⟩ | ⟨c, info, rfl⟩ := ht
  · exact hI.setResult r u hu
  · exact hI.setResult _ _ (hI.takeError c info u hu)

theorem Invariant.exec {I : State → Prop} (hI : Invariant I) {i : Instr} (hs : I s) (h : exec i s = .next t) :
    I t := by
  rcases exec_cases h with ⟨-, rfl⟩ | ⟨input, dest, -, -, -, rfl⟩ | hr
  · exact hI.setResult _ _ (hI.resetState s hs)
  · exact hI.setResult _ _ (hI.constructed input dest s hs)
  · exact hI.reaches hr hs

theorem Invariant.step {I : State → Prop} (hI : Invariant I) (hs : I s) (h : step s = .next t) : I t :=
  step_keeps hI.setInbox (fun _ _ _ hs h => hI.exec hs h) (fun _ _ hs hr => hI.reaches hr hs) hs h

/-! ## The state after reset -/

theorem channelAt_reset (c : Nat) : channelAt State.reset c = Channel.reset := by
  simp only [channelAt, State.reset, Vector.getElem?_replicate]
  split <;> rfl

theorem levelAt_reset (c l : Nat) : levelAt State.reset c l = Level.reset := by
  simp only [levelAt, channelAt_reset, Channel.reset, Vector.getElem?_replicate]
  split <;> rfl

theorem prescaleAt_reset (c l : Nat) : prescaleAt State.reset c l = 0 := by
  simp only [prescaleAt, channelAt_reset, Channel.reset, Vector.getElem?_replicate]
  split <;> rfl

/-- An uninitialized level has no buffers, so the reset state has no level with one. -/
theorem levelIds_reset : levelIds State.reset = [] := by
  simp [levelIds, levelAt_reset, levelBufs, Level.reset]

/-! ## The table -/

theorem length_logTable : logTable.length = 4096 := by simp [logTable, Config.logTableSize]

theorem tableLegal_invariant : Invariant tableLegal where
  write k s t hw hs := by
    cases hw with
    | logt =>
      unfold tableLegal
      rw [setLogt_logt]
      exact ⟨length_logTable, fun _ => rfl⟩
    | _ => exact hs
  takeError c info s hs := by
    obtain ⟨e, x, he⟩ := takeError_rest c info s
    rw [he]
    exact hs
  setResult _ _ hs := hs
  setInbox _ _ hs := hs
  constructed _ _ _ hs := hs
  resetState _ _ := ⟨List.length_replicate, nofun⟩

/-! ## The cursor -/

theorem cursorLegal_invariant : Invariant cursorLegal where
  write k s t hw hs := by
    cases hw with
    | pos _ n hn => exact hn
    | logt =>
      -- the unifier is not to evaluate the 4096 entries
      generalize logTable = table
      exact hs
    | _ => exact hs
  takeError c info s hs := by
    obtain ⟨e, x, he⟩ := takeError_rest c info s
    rw [he]
    exact hs
  setResult _ _ hs := hs
  setInbox _ _ hs := hs
  constructed _ _ _ _ := Nat.zero_le _
  resetState _ _ := Nat.zero_le _

/-! ## The session -/

theorem boundLegal_iff : boundLegal s = true ↔ ∃ b, s.binding = some b ∧ destAccepted b.dest := by
  simp [boundLegal, destAccepted, Option.any_eq_true]

/-- A legal session stays legal where the binding stays and SESS and ERR stay or record a new error. -/
theorem SessionEnd.legal (h : SessionEnd s t) (hb : t.binding = s.binding) (hs : sessionLegal s) : sessionLegal t := by
  obtain ⟨hrun, hfault, hnone, hidle, hbound⟩ := hs
  rcases h with ⟨hsess, herr⟩ | ⟨-, hsess, herr⟩
  · have hbt : boundLegal t = boundLegal s := by simp only [boundLegal, hb]
    unfold sessionLegal
    rw [hsess, herr, hb, hbt]
    exact ⟨hrun, hfault, hnone, hidle, hbound⟩
  · unfold sessionLegal
    rw [hsess]
    exact ⟨nofun, fun _ => herr, fun hn => absurd rfl hn, nofun,
      fun hn => hn.elim nofun nofun⟩

/-- A command that went from READY to DONE with the binding kept has the legal binding READY had. -/
theorem sessionLegal_done (hready : s.sess = .ready) (hdone : t.sess = .done) (herr : t.err = s.err)
    (hb : t.binding = s.binding) (hs : sessionLegal s) : sessionLegal t := by
  obtain ⟨-, -, hnone, -, hbound⟩ := hs
  have hbt : boundLegal t = true := by simpa only [boundLegal, hb] using hbound (.inl hready)
  unfold sessionLegal
  rw [hdone, herr]
  exact ⟨nofun, nofun, fun _ => hnone (by simp [hready]), nofun, fun _ => hbt⟩

theorem sessionLegal_resetState (s : State) : sessionLegal (resetState s) :=
  ⟨nofun, nofun, fun _ => rfl, fun _ => rfl, fun hn => hn.elim nofun nofun⟩

theorem sessionLegal_constructed {input : InHandle} {dest : DestHandle} (hidle : s.sess = .idle)
    (hd : destAccepted dest) (hs : sessionLegal s) : sessionLegal (constructed input dest s) := by
  obtain ⟨-, -, hnone, -, -⟩ := hs
  exact ⟨nofun, nofun, fun _ => hnone (by simp [hidle]),
    nofun, fun _ => boundLegal_iff.mpr ⟨_, rfl, hd⟩⟩

theorem sessionLegal_exec {i : Instr} (hs : sessionLegal s) (h : exec i s = .next t) : sessionLegal t := by
  rcases exec_cases h with ⟨-, rfl⟩ | ⟨input, dest, -, hidle, hd, rfl⟩ | hr
  · exact sessionLegal_resetState s
  · exact sessionLegal_constructed (s := s) hidle hd hs
  · rcases exec_session hr h with hend | ⟨-, hready, hdone, herr⟩
    · exact hend.legal hr.frame.binding hs
    · exact sessionLegal_done hready hdone herr hr.frame.binding hs

end Sys2Proof.Machine
end

section
/-! THE STATEMENTS of `10_state.md`, settled. -/

namespace Sys2Proof.Settled

open Sys2Proof.Machine

/-- Settles O17. -/
theorem resetValues : Obligations.ResetValues := by
  unfold Obligations.ResetValues
  exact ⟨rfl, rfl, rfl, rfl, rfl, rfl, fun c _ l _ => prescaleAt_reset c l, rfl, fun c _ l _ => levelAt_reset c l,
    rfl, rfl, rfl, rfl, rfl⟩

/-- Settles O16. -/
theorem resetLegal : Obligations.ResetLegal := by
  unfold Obligations.ResetLegal
  have hlevels : levelsLegal State.reset := by
    refine ⟨fun c _ l _ => ?_, ?_, ?_, nofun⟩
    · rw [levelAt_reset]
      exact ⟨fun _ => rfl, nofun⟩
    · rw [levelIds_reset]
      exact List.nodup_nil
    · rw [levelIds_reset]
      exact nofun
  exact ⟨⟨⟨.nil, nofun⟩, ⟨.nil, nofun⟩, .nil, nofun⟩, hlevels, sessionLegal_resetState State.reset, Nat.zero_le _,
    tableLegal_invariant.resetState State.reset ⟨List.length_replicate, nofun⟩⟩

/-- Settles O6: taking the request changes only the inbox, so the bits at POS decode as before. -/
theorem stepRunsDecoded : Obligations.StepRunsDecoded := by
  unfold Obligations.StepRunsDecoded
  refine ⟨fun s => step_idle, fun s rest code ports i hq hc hd => ?_, fun s rest code ports i hq hd => ?_,
    fun s rest f i after hq hd => ?_⟩
  · rw [step_request hq]
    exact runHost_of_ok hc hd
  · rw [step_request hq]
    exact runUnit_of_ok hd
  · rw [step_request hq]
    exact runStream_of_ok (after := after) hd

/-- Settles O15, as an invariant of every single write. -/
theorem tableKept : Obligations.TableKept := by
  unfold Obligations.TableKept
  exact fun s t => tableLegal_invariant.step

/-- Settles O14, as an invariant of every single write. -/
theorem cursorKept : Obligations.CursorKept := by
  unfold Obligations.CursorKept
  exact fun s t => cursorLegal_invariant.step

/-- Settles O13, by whole instructions: inside DECODE the session is RUNNING, so it is not kept write by write. -/
theorem sessionKept : Obligations.SessionKept := by
  unfold Obligations.SessionKept
  exact fun s t => step_keeps (fun _ _ hs => hs) (fun _ _ _ => sessionLegal_exec)
    fun _ _ hs hr => (hr.session (by simp)).legal hr.frame.binding hs

/-- Settles O21: RESET and a CONSTRUCT that succeeds leave named states; for every other run the row of `writes`
gives the frame, and each row of the statement asks no more than its frame and what became of SESS and ERR. -/
theorem registerWriters : Obligations.RegisterWriters := by
  unfold Obligations.RegisterWriters
  intro i s t h
  rcases exec_cases h with ⟨rfl, rfl⟩ | ⟨input, dest, rfl, -, -, rfl⟩ | hr
  · simp [resetState]
  · simp [constructed]
  · have hf := hr.frame
    have herr : t.err = s.err ∨ s.sess ≠ .faulted ∧ t.sess = .faulted := by
      rcases exec_session hr h with (⟨-, herr⟩ | ⟨hs, hfault, -⟩) | ⟨-, -, -, herr⟩
      · exact .inl herr
      · exact .inr ⟨hs, hfault⟩
      · exact .inl herr
    have hsess : (¬∃ x y, i = .decode x y) → t.sess = s.sess ∨ t.sess = .faulted := by
      intro hi
      rcases exec_session hr h with (⟨hsess, -⟩ | ⟨-, hfault, -⟩) | ⟨hd, -⟩
      · exact .inl hsess
      · exact .inr hfault
      · exact absurd hd hi
    cases i <;>
      simp [writes, decodePieces, imagePieces, fillPieces, hf.pos_le, hf.nextBuf_le, hf.epoch, hf.mem, hf.inbox,
        hf.binding, hf.pos, hf.seq, hf.hdr, hf.logt, hf.offsets, hf.dest, hf.nextBuf, hf.bufs, hf.bufIds, hf.level,
        hf.prescale, herr, hsess]

end Sys2Proof.Settled
end

section
/-! SUPPORT. Memory (`20_memory.md`): that every store stays canonical, and where a destination sample that changes
lies and what it can hold. -/

namespace Sys2Proof.Machine

variable {W : List Piece} {s t u : State} {α β : Type}

/-! ## BUF in canonical form -/

/-- One array in canonical form: its cells are, and they lie inside its length. -/
def Buffer.wf (b : Buffer) : Prop := Cells.wf b.cells ∧ ∀ c ∈ b.cells, c.1 < b.len

/-- BUF in canonical form: ids rising, every array canonical. -/
def bufsWf (m : List (Nat × Buffer)) : Prop := (m.Pairwise fun a b => a.1 < b.1) ∧ ∀ e ∈ m, e.2.wf

theorem storageWf_iff : storageWf s ↔ Memory.wf s.mem ∧ Cells.wf s.dest ∧ bufsWf s.bufs := .rfl

theorem Buffer.wf_zero (len : Nat) : Buffer.wf ⟨len, []⟩ := ⟨⟨.nil, nofun⟩, nofun⟩

/-- Writing an element inside the array keeps the array canonical. -/
theorem Buffer.wf_cellWrite {b : Buffer} {e : Nat} (h : b.wf) (he : e < b.len) (v : Coef) :
    Buffer.wf ⟨b.len, cellWrite b.cells e v⟩ := by
  obtain ⟨hcells, hlen⟩ := h
  refine ⟨cellWrite_wf _ _ _ hcells, fun c hc => ?_⟩
  rcases cellWrite_mem _ _ _ c hc with hc | ⟨rfl, -⟩
  · exact hlen c hc
  · exact he

theorem bufFind_mem {m : List (Nat × Buffer)} {id : Nat} {b : Buffer} (h : bufFind m id = some b) : (id, b) ∈ m := by
  induction m with
  | nil => cases h
  | cons e m ih =>
    obtain ⟨k, c⟩ := e
    rw [bufFind] at h
    split at h
    · next hk =>
      cases h
      exact hk ▸ List.mem_cons_self
    · exact List.mem_cons_of_mem _ (ih h)

theorem bufsWf_bufPut {m : List (Nat × Buffer)} {b : Buffer} (h : bufsWf m) (hb : b.wf) (id : Nat) :
    bufsWf (bufPut m id b) := by
  obtain ⟨hids, harrays⟩ := h
  refine ⟨bufPut_rising _ _ _ hids, fun e he => ?_⟩
  rcases bufPut_mem _ _ _ e he with he | rfl
  · exact harrays e he
  · exact hb

/-- Dropping ids removes entries of BUF and changes none. -/
theorem bufDrop_foldl_sublist (ids : List Nat) (m : List (Nat × Buffer)) : (ids.foldl bufDrop m).Sublist m := by
  induction ids generalizing m with
  | nil => exact .refl m
  | cons id ids ih => exact (ih (bufDrop m id)).trans List.filter_sublist

theorem bufsWf_sublist {m m' : List (Nat × Buffer)} (h : bufsWf m) (hs : m'.Sublist m) : bufsWf m' :=
  ⟨h.1.sublist hs, fun e he => h.2 e (hs.subset he)⟩

/-! ## Every store in canonical form -/

theorem storageWf_write {k : Piece} (hw : Write k s t) (hs : storageWf s) : storageWf t := by
  obtain ⟨hmem, hdest, hbufs⟩ := storageWf_iff.mp hs
  cases hw with
  | element _ id e b v hb he =>
    exact ⟨hmem, hdest, bufsWf_bufPut hbufs (Buffer.wf_cellWrite (hbufs.2 _ (bufFind_mem hb)) he v) id⟩
  | create _ len => exact ⟨hmem, hdest, bufsWf_bufPut hbufs (Buffer.wf_zero len) s.nextBuf⟩
  | drop _ ids => exact ⟨hmem, hdest, bufsWf_sublist hbufs (bufDrop_foldl_sublist ids s.bufs)⟩
  | dest _ key v => exact ⟨hmem, cellWrite_wf _ _ _ hdest, hbufs⟩
  | logt =>
    -- the unifier is not to evaluate the 4096 entries
    generalize logTable = table
    exact hs
  | _ => exact hs

theorem storageWf_invariant : Invariant storageWf where
  write _ _ _ hw hs := storageWf_write hw hs
  takeError c info s hs := by
    obtain ⟨e, x, he⟩ := takeError_rest c info s
    rw [he]
    exact hs
  setResult _ _ hs := hs
  setInbox _ _ hs := hs
  constructed _ _ _ hs := hs
  resetState _ hs := by
    obtain ⟨hmem, hdest, -⟩ := storageWf_iff.mp hs
    exact ⟨hmem, hdest, .nil, nofun⟩

/-! ## The host's memory -/

/-- No write has IN, or any byte of the host's memory, as its target. -/
theorem mem_eq_invariant (m : Memory) : Invariant fun s => s.mem = m where
  write k _ _ hw hs := (Write.path (W := [k]) hw List.mem_cons_self).frame.mem.trans hs
  takeError c info s hs := ((Frame.refl (W := []) s).takeError c info).mem.trans hs
  setResult _ _ hs := hs
  setInbox _ _ hs := hs
  constructed _ _ _ hs := hs
  resetState _ hs := hs

/-! ## What a frame keeps, operations keep -/

/-- An operation that writes only the pieces in `W` keeps what no such write touches. -/
theorem Within.keeps {I : State → Prop} {op : Op α} (h : Within W op) (hI : ∀ s t, Frame W s t → I s → I t) :
    Keeps I op := by
  intro s hs
  cases ho : op s with
  | ok a t => exact hI s t (h.ok ho).frame hs
  | error e t =>
    obtain ⟨u, c, info, hp, rfl⟩ := h.error ho
    exact hI s _ (hp.frame.takeError c info) hs

/-- Two parts in sequence, where the second may count on what the first answered. -/
theorem keeps_bind_of_ok {I : State → Prop} {x : Op α} {f : α → Op β} (hx : Keeps I x)
    (hf : ∀ s a u, I s → x s = .ok a u → Keeps I (f a)) : Keeps I (x >>= f) := by
  intro s hs
  rw [op_bind]
  cases hxs : x s with
  | ok a u => exact hf s a u hs hxs u (hx.ok hs hxs)
  | error e u => exact hx.error hs hxs

/-! ## A channel of DECODE: what its writes and LV.RECON keep -/

/-- What DECODE writes for a channel apart from LV.RECON (`44_channel_orchestrator.md` R202): of `imagePieces` neither
the header nor DEST, which is what the guard on DEST below needs. -/
def channelPieces : List Piece := [.pos, .seq, .logt, .element, .create, .level]

theorem within_ensureLevel_channel (c l w h : Nat) : Within channelPieces (ensureLevel c l w h) := by
  refine within_bind within_get fun s => ?_
  split
  · exact within_pure _
  · exact within_levelInit (by simp [channelPieces]) (by simp [channelPieces]) _ _ _ _

theorem within_fillCodedBand_channel (c l numLevels b : Nat) :
    Within channelPieces (fillCodedBand c l numLevels b) :=
  within_bind (within_moveSeq (by simp [channelPieces]) _ _ _ _) fun _ =>
    within_bind (within_modify fun s => (Write.level s _ _ _).path (by simp [channelPieces])) fun _ =>
      (within_fillBand _ _).mono (by simp [fillPieces, channelPieces])

theorem within_dequantBand_channel (c l b : Nat) : Within channelPieces (dequantBand c l b) :=
  within_bind (within_levelBandPlane _ _) fun _ =>
    within_bind (within_moveSeq (by simp [channelPieces]) _ _ _ _) fun _ => within_bind within_get fun _ =>
      within_levelDequant (by simp [channelPieces]) _ _ _

section
variable {I : State → Prop} (hI : ∀ s t, Frame channelPieces s t → I s → I t)
  (hrecon : ∀ lv dest prescale clamp, Keeps I (levelRecon lv dest prescale clamp))
include hI hrecon

theorem keeps_decodeLevel (c numLevels l : Nat) : Keeps I (decodeLevel c numLevels l) := by
  have hs : Piece.seq ∈ channelPieces := by simp [channelPieces]
  refine keeps_bind keeps_get fun s => keeps_bind ((within_ensureLevel_channel _ _ _ _).keeps hI) fun _ =>
    keeps_bind ((within_forFrom (within_fillCodedBand_channel c l numLevels) _ _).keeps hI) fun _ =>
      keeps_bind ((within_forFrom (within_dequantBand_channel c l) _ _).keeps hI) fun _ => ?_
  by_cases hl : l = 0
  · simp only [if_pos hl]
    exact keeps_bind ((within_moveSeq hs _ _ _ _).keeps hI) fun _ => hrecon _ _ _ _
  · simp only [if_neg hl]
    exact keeps_bind ((within_ensureLevel_channel _ _ _ _).keeps hI) fun _ =>
      keeps_bind ((within_levelBandPlane _ _).keeps hI) fun _ =>
        keeps_bind ((within_moveSeq hs _ _ _ _).keeps hI) fun _ => keeps_bind (hrecon _ _ _ _) fun _ =>
          (within_levelSetValid (by simp [channelPieces]) _ _).keeps hI

theorem keeps_decodeLevels (c numLevels k : Nat) : Keeps I (decodeLevels c numLevels k) := by
  induction k with
  | zero => exact keeps_pure _
  | succ k ih => exact keeps_bind (keeps_decodeLevel hI hrecon c numLevels k) fun _ => ih

theorem keeps_decodeChannel (c : Nat) : Keeps I (decodeChannel c) :=
  keeps_bind keeps_get fun _ => keeps_decodeLevels hI hrecon c _ _

end

/-! ## Samples of the destination -/

/-- `key` is the key of a sample inside the image region and inside the bound image (`20_memory.md` R68). -/
def onImage (s : State) (key : Nat) : Prop :=
  ∃ b x y, s.binding = some b ∧ key = destKey b.dest.image x y ∧ inRegion s x y ∧
    x < b.dest.w.toNat ∧ y < b.dest.h.toNat

/-- The header is `hdr`, and every sample in which DEST differs from `d` is on the image and holds at most
bitsPerComponent bits. -/
structure DestGuarded (d : Cells 16) (hdr : HdrFields) (s : State) : Prop where
  header : s.hdr = hdr
  wf : Cells.wf s.dest
  placed : ∀ key, cellRead s.dest key ≠ cellRead d key → onImage s key
  fits : ∀ key, cellRead s.dest key ≠ cellRead d key → hdr.bitsPerComponent.toNat ≤ 16 →
    (cellRead s.dest key).toNat < 2 ^ hdr.bitsPerComponent.toNat

variable {d : Cells 16} {hdr : HdrFields}

/-- Where no sample changed, every header guards DEST. -/
theorem DestGuarded.unchanged (hwf : Cells.wf d) (hd : t.dest = d) : DestGuarded d t.hdr t where
  header := rfl
  wf := hd ▸ hwf
  placed _ hk := absurd (by rw [hd]) hk
  fits _ hk := absurd (by rw [hd]) hk

theorem onImage_congr (hb : t.binding = s.binding) (hh : t.hdr = s.hdr) (hx : t.offx = s.offx)
    (hy : t.offy = s.offy) (key : Nat) : onImage t key ↔ onImage s key := by
  simp only [onImage, inRegion, hb, hh, hx, hy]

/-- Writes that leave the header, the offsets and the samples alone keep the guard. -/
theorem DestGuarded.frame (h : Frame W s t) (hh : .hdr ∉ W) (ho : .offsets ∉ W) (hd : .dest ∉ W)
    (hs : DestGuarded d hdr s) : DestGuarded d hdr t := by
  obtain ⟨hx, hy⟩ := h.offsets ho
  have hhdr := (h.hdr hh).1
  have hdest := h.dest hd
  refine ⟨hhdr.trans hs.header, hdest ▸ hs.wf, fun key hk => ?_, fun key hk => ?_⟩
  · exact (onImage_congr h.binding hhdr hx hy key).mpr (hs.placed key (hdest ▸ hk))
  · rw [hdest] at hk ⊢
    exact hs.fits key hk

theorem Within.keeps_guarded {op : Op α} (h : Within W op) (hh : .hdr ∉ W) (ho : .offsets ∉ W) (hd : .dest ∉ W) :
    Keeps (DestGuarded d hdr) op := h.keeps fun _ _ hf => DestGuarded.frame hf hh ho hd

/-- A sample written on the image with at most bitsPerComponent bits keeps the guard. -/
theorem DestGuarded.setDest {key : Nat} {v : U16} (hs : DestGuarded d hdr s) (hk : onImage s key)
    (hv : hdr.bitsPerComponent.toNat ≤ 16 → v.toNat < 2 ^ hdr.bitsPerComponent.toNat) :
    DestGuarded d hdr (setDest (cellWrite s.dest key v) s) where
  header := hs.header
  wf := cellWrite_wf _ _ _ hs.wf
  placed k hne := by
    by_cases he : k = key
    · exact he ▸ hk
    · rw [setDest_dest, cellRead_cellWrite_ne _ _ _ _ he] at hne
      exact hs.placed k hne
  fits k hne := by
    by_cases he : k = key
    · rwa [he, setDest_dest, cellRead_cellWrite_same _ _ _ hs.wf]
    · rw [setDest_dest, cellRead_cellWrite_ne _ _ _ _ he] at hne ⊢
      exact hs.fits k hne

/-! ## The values LV.RECON sends to an image -/

/-- A clamped value has at most bitsPerComponent bits (`43_level.md` R179). -/
theorem postValue_clamped (bpc : Nat) (v : Int) (prescale : Nat) :
    0 ≤ postValue bpc v prescale true ∧ postValue bpc v prescale true < 2 ^ bpc := by
  have hpos : (0 : Int) < 2 ^ bpc := by positivity
  simp only [postValue, clampInt, if_true]
  omega

/-- A value of at most 16 bits is the sample it is sent to. -/
theorem sampleOf_toNat {v : Int} (h0 : 0 ≤ v) (hv : v < 65536) : (sampleOf v).toNat = v.toNat := by
  rw [sampleOf, if_pos ⟨h0, hv⟩, BitVec.toNat_ofInt]
  omega

theorem sampleOf_lt {v : Int} {n : Nat} (h0 : 0 ≤ v) (hv : v < 2 ^ n) (hn : n ≤ 16) : (sampleOf v).toNat < 2 ^ n := by
  have hle : (2 : Int) ^ n ≤ 2 ^ 16 := pow_le_pow_right₀ (by decide) hn
  rw [sampleOf_toNat h0 (by omega)]
  zify
  omega

theorem keeps_destWrite_guarded {v : Int} (h0 : 0 ≤ v) (hv : v < 2 ^ hdr.bitsPerComponent.toNat) (c X Y : Nat) :
    Keeps (DestGuarded d hdr) (destWrite c X Y v) := by
  intro s hs
  rcases destWrite_cases c X Y v s with ⟨b, hb, hin, hx, hy, he⟩ | ⟨-, he⟩
  · rw [he]
    exact hs.setDest ⟨b, _, _, hb, rfl, hin, hx, hy⟩ (sampleOf_lt h0 hv)
  · rw [he]
    exact hs

/-- LV.RECON: an image sink has passed the check that clamping is on, so every sample it is sent fits. -/
theorem keeps_levelRecon_guarded (lv : LevelRef) (dest : Sink) (prescale : BitVec 4) (clamp : Bool) :
    Keeps (DestGuarded d hdr) (levelRecon lv dest prescale clamp) := by
  have hread {α : Type} {op : Op α} (h : Within [] op) : Keeps (DestGuarded d hdr) op :=
    h.keeps_guarded (by simp) (by simp) (by simp)
  refine keeps_bind (hread (within_fetchLevel lv)) fun lev =>
    keeps_bind (hread (within_failIf (allValid lev = false) _ _)) fun _ =>
      keeps_bind_of_ok (hread (within_checkSink _ _ _ _)) fun _ _ _ _ hsink =>
        keeps_bind (hread (within_synth2D lev)) fun rows => keeps_bind_of_ok keeps_get fun s _ _ hs hget =>
          keeps_forFrom (fun Y => keeps_forFrom (fun X => ?_) _ _) _ _
  cases hget
  cases dest with
  | plane p =>
    exact (within_planeWrite (W := [.element]) List.mem_cons_self p X Y _).keeps_guarded (by simp) (by simp) (by simp)
  | image c =>
    obtain ⟨-, rfl, -, -⟩ := checkSink_ok hsink
    obtain ⟨h0, hv⟩ := postValue_clamped s.hdr.bitsPerComponent.toNat ((rows.getD Y []).getD X 0) prescale.toNat
    exact keeps_destWrite_guarded h0 (hs.header ▸ hv) c.toNat X Y

/-! ## Instructions and steps -/

theorem DestGuarded.setResult (r : Result) (hs : DestGuarded d hdr s) : DestGuarded d hdr (setResult r s) := { hs with }

theorem exec_lvRecon_guarded {lv : LevelRef} {dest : Sink} {p : BitVec 4} {clamp : Bool} (hwf : Cells.wf s.dest)
    (h : exec (.lvRecon lv dest p clamp) s = .next t) : DestGuarded s.dest s.hdr t :=
  finish_keeps (keeps_bind (keeps_levelRecon_guarded lv dest p clamp) fun _ => keeps_pure _)
    (fun _ r hs => hs.setResult r) (.unchanged hwf rfl) h

/-- DECODE after its header (`44_channel_orchestrator.md` R201). -/
def imageTail : Op Unit := do
  checkDestRegion
  let s ← get
  forFrom 0 s.hdr.numChannels.toNat decodeChannel
  moveSeq .fin (s.hdr.numChannels.toNat - 1) 0 0
  modify (setSess .done)

theorem imageBody_done_eq :
    (imageBody >>= fun _ => modify (setSess .done)) = parseHeader readField >>= fun _ => imageTail := by
  simp only [imageBody, imageTail, bind_assoc]

/-- After its header DECODE writes no header and no offset, and DEST through LV.RECON only. -/
theorem keeps_imageTail_guarded : Keeps (DestGuarded d hdr) imageTail := by
  have hchannel (s t) (hf : Frame channelPieces s t) : DestGuarded d hdr s → DestGuarded d hdr t :=
    .frame hf (by simp [channelPieces]) (by simp [channelPieces]) (by simp [channelPieces])
  have hseq : Piece.seq ∈ channelPieces := by simp [channelPieces]
  exact keeps_bind (within_checkDestRegion.keeps hchannel) fun _ => keeps_bind keeps_get fun _ =>
    keeps_bind (keeps_forFrom (keeps_decodeChannel hchannel keeps_levelRecon_guarded) _ _) fun _ =>
      keeps_bind ((within_moveSeq hseq _ _ _ _).keeps hchannel) fun _ => keeps_modify fun _ hs => { hs with }

/-- An instruction depends only on what its operation answers. -/
theorem finishUnit_congr {op op' : Op Unit} (h : op s = op' u) : finishUnit op s = finishUnit op' u := by
  simp only [finishUnit, finish, op_bind, h]

/-- DECODE leaves DEST alone until its header is read; from there on the header guards it. -/
theorem exec_decode_guarded {x y : U16} (hwf : Cells.wf s.dest) (h : exec (.decode x y) s = .next t) :
    ∃ hdr, DestGuarded s.dest hdr t := by
  have hop := decodeImage_apply x y s
  by_cases hs : s.sess = .ready
  · rw [if_pos hs, imageBody_done_eq] at hop
    have hparse : Within [.pos, .hdr] (parseHeader readField) :=
      within_parseHeader (by simp) fun _ => within_bitRead (by simp) _
    cases hp : parseHeader readField (imageStart x y s) with
    | ok a u =>
      rw [op_bind_of_ok hp] at hop
      have htail : finishUnit imageTail u = .next t := (finishUnit_congr hop).symm.trans h
      have hu : u.dest = s.dest := (hparse.ok hp).frame.dest (by simp)
      exact ⟨u.hdr, finish_keeps (keeps_bind keeps_imageTail_guarded fun _ => keeps_pure _)
        (fun _ r hs => hs.setResult r) (.unchanged hwf hu) htail⟩
    | error e u =>
      rw [op_bind_of_error hp] at hop
      obtain rfl : setResult .none u = t := Host.Outcome.next.inj ((finishUnit_of_raised hop).symm.trans h)
      obtain ⟨v, c, info, hv, rfl⟩ := hparse.error hp
      exact ⟨_, .unchanged hwf ((hv.frame.takeError c info).dest (by simp))⟩
  · rw [if_neg hs] at hop
    exact ⟨_, .unchanged hwf ((raised_reaches hop h).frame.dest List.not_mem_nil)⟩

/-- LV.RECON and DECODE are the instructions that write DEST. -/
theorem dest_not_mem_writes {i : Instr} (hr : ∀ lv dest p clamp, i ≠ .lvRecon lv dest p clamp)
    (hd : ∀ x y, i ≠ .decode x y) : .dest ∉ writes i := by
  cases i with
  | lvRecon lv dest p clamp => exact absurd rfl (hr lv dest p clamp)
  | decode x y => exact absurd rfl (hd x y)
  | _ => simp [writes, fillPieces]

theorem exec_dest_eq {i : Instr} (hr : ∀ lv dest p clamp, i ≠ .lvRecon lv dest p clamp)
    (hd : ∀ x y, i ≠ .decode x y) (h : exec i s = .next t) : t.dest = s.dest := by
  rcases exec_cases h with ⟨-, rfl⟩ | ⟨input, dest, -, -, -, rfl⟩ | hreach
  · rfl
  · rfl
  · exact hreach.frame.dest (dest_not_mem_writes hr hd)

theorem exec_guarded {i : Instr} (hwf : Cells.wf s.dest) (h : exec i s = .next t) :
    ∃ hdr, DestGuarded s.dest hdr t := by
  by_cases hr : ∃ lv dest p clamp, i = .lvRecon lv dest p clamp
  · obtain ⟨lv, dest, p, clamp, rfl⟩ := hr
    exact ⟨_, exec_lvRecon_guarded hwf h⟩
  · by_cases hd : ∃ x y, i = .decode x y
    · obtain ⟨x, y, rfl⟩ := hd
      exact exec_decode_guarded hwf h
    · push Not at hr hd
      exact ⟨_, .unchanged hwf (exec_dest_eq hr hd h)⟩

/-- One step holds its state, or takes a request off the inbox and runs it. -/
theorem step_cases (h : step s = .next t) :
    t = s ∨ ∃ q, (∃ i, exec i (setInbox q s) = .next t) ∨ Reaches [.pos, .hdr] (setInbox q s) t := by
  cases hq : s.inbox with
  | nil => exact .inl (Host.Outcome.next.inj ((step_idle hq).symm.trans h)).symm
  | cons r rest => exact .inr ⟨rest, runRequest_cases (step_request hq ▸ h)⟩

theorem step_guarded (hwf : Cells.wf s.dest) (h : step s = .next t) : ∃ hdr, DestGuarded s.dest hdr t := by
  rcases step_cases h with rfl | ⟨q, ⟨i, hi⟩ | hreach⟩
  · exact ⟨_, .unchanged hwf rfl⟩
  · exact exec_guarded (s := setInbox q s) hwf hi
  · exact ⟨_, .unchanged hwf (hreach.frame.dest (by simp))⟩

end Sys2Proof.Machine
end

section
/-! THE STATEMENTS of `20_memory.md`, settled. -/

namespace Sys2Proof.Settled

open Sys2Proof.Machine

/-- Settles O11, as an invariant of every single write. -/
theorem storageKept : Obligations.StorageKept := by
  unfold Obligations.StorageKept
  exact fun s t => storageWf_invariant.step

/-- Settles O18: no write has the host's memory as its target. -/
theorem inputNeverWritten : Obligations.InputNeverWritten := by
  unfold Obligations.InputNeverWritten
  exact fun s t => (mem_eq_invariant s.mem).step rfl

/-- Settles O19, read off the guard every step leaves on DEST: only DestWrite changes a sample, inside the region and
the image, and what it is sent is clamped. -/
theorem destinationSafety : Obligations.DestinationSafety := by
  unfold Obligations.DestinationSafety
  intro s t key hs h hk
  obtain ⟨-, hwf, -⟩ := storageWf_iff.mp hs
  obtain ⟨hdr, hguard⟩ := step_guarded hwf h
  obtain ⟨b, x, y, hb, hkey, ⟨hx0, hx1, hy0, hy1⟩, hw, hh⟩ := hguard.placed key hk
  exact ⟨b, x, y, hb, hkey, hx0, hx1, hy0, hy1, hw, hh, hguard.header ▸ hguard.fits key hk⟩

end Sys2Proof.Settled
end

section
/-! SUPPORT. The code of `30_encoding.md`: for each reader of bits, exactly which bits it takes and which it leaves. -/

namespace Sys2Proof

/-! ## Numbers of fixed width -/

theorem natToBits_length (n v : Nat) : (natToBits n v).length = n := by
  induction n with
  | zero => rfl
  | succ n ih => simp [natToBits, ih]

theorem div_two_pow_eq_iff (v n acc : Nat) (b : Bool) :
    v / 2 ^ n = 2 * acc + b.toNat ↔ v / 2 ^ (n + 1) = acc ∧ b = v.testBit n := by
  rw [Nat.testBit_eq_decide_div_mod_eq, pow_succ, ← Nat.div_div_eq_div_mul]
  cases b <;> simp <;> omega

/-- Reading `n` bits onto `acc` answers the number whose low `n` bits were read and whose higher bits are `acc`. -/
theorem takeNat_eq_ok {n acc v : Nat} {bs rest : List Bool} :
    takeNat n acc bs = .ok (v, rest) ↔ v / 2 ^ n = acc ∧ bs = natToBits n v ++ rest := by
  induction n generalizing acc bs with
  | zero => simp [takeNat, natToBits, eq_comm]
  | succ n ih =>
    cases bs with
    | nil => simp [takeNat, natToBits]
    | cons b bs =>
      rw [takeNat, ih, div_two_pow_eq_iff]
      simp [natToBits, and_assoc]

theorem takeNat_zero_eq_ok {n v : Nat} {bs rest : List Bool} :
    takeNat n 0 bs = .ok (v, rest) ↔ v < 2 ^ n ∧ bs = natToBits n v ++ rest := by
  rw [takeNat_eq_ok, Nat.div_eq_zero_iff_lt (by positivity)]

theorem takeNat_eq_error {n acc : Nat} {bs : List Bool} {e : Reject} (h : takeNat n acc bs = .error e) :
    e = .unterminated ∧ bs.length < n := by
  induction n generalizing acc bs with
  | zero => simp [takeNat] at h
  | succ n ih =>
    cases bs with
    | nil => simpa [takeNat, eq_comm] using h
    | cons b bs => simpa using ih h

/-! ## Code words (R97, R98) -/

/-- The zero run of a word ends at its first 1, within the zeros that are allowed. -/
theorem codeZeros_eq_ok {left z z' : Nat} {bs rest : List Bool} :
    codeZeros left z bs = .ok (z', rest) ↔
      ∃ k ≤ left, z' = z + k ∧ bs = List.replicate k false ++ true :: rest := by
  induction left generalizing z bs with
  | zero => rcases bs with _ | ⟨_ | _, bs⟩ <;> simp [codeZeros, eq_comm (a := z)]
  | succ left ih =>
    rcases bs with _ | ⟨_ | _, bs⟩
    · simp [codeZeros]
    · rw [codeZeros, ih]
      constructor
      · rintro ⟨k, hk, rfl, rfl⟩
        exact ⟨k + 1, by omega, by omega, rfl⟩
      · rintro ⟨_ | k, hk, rfl, hbs⟩
        · simp at hbs
        · exact ⟨k, by omega, by omega, by simpa [List.replicate_succ] using hbs⟩
    · constructor
      · intro h
        obtain ⟨rfl, rfl⟩ : z = z' ∧ bs = rest := by simpa [codeZeros] using h
        exact ⟨0, by simp⟩
      · rintro ⟨_ | k, -, rfl, hbs⟩
        · simpa [codeZeros] using hbs
        · simp [List.replicate_succ] at hbs

/-- One zero too many is malformed, whatever follows it. -/
theorem codeZeros_eq_malformed {left z : Nat} {bs : List Bool} :
    codeZeros left z bs = .error .malformed ↔ List.replicate (left + 1) false <+: bs := by
  induction left generalizing z bs with
  | zero => rcases bs with _ | ⟨_ | _, bs⟩ <;> simp [codeZeros]
  | succ left ih =>
    rcases bs with _ | ⟨_ | _, bs⟩
    · simp [codeZeros]
    · rw [codeZeros, ih, List.replicate_succ (n := left + 1), List.cons_prefix_cons]
      simp
    · simp [codeZeros, List.replicate_succ]

theorem codeZeros_eq_error {left z : Nat} {bs : List Bool} {e : Reject} (h : codeZeros left z bs = .error e) :
    e = .malformed ∨ bs.length ≤ left := by
  induction left generalizing z bs with
  | zero => rcases bs with _ | ⟨_ | _, bs⟩ <;> simp_all [codeZeros]
  | succ left ih =>
    rcases bs with _ | ⟨_ | _, bs⟩
    · simp
    · simpa using ih h
    · simp [codeZeros] at h

theorem codeBits_length (z suffix : Nat) : (codeBits z suffix).length = 2 * z + 1 := by
  simp [codeBits, natToBits_length]
  omega

/-- A code word is decoded exactly: its zeros and its suffix are those of the bits that stand first (R97). -/
theorem decodeCode_eq_ok {bs rest : List Bool} {z suffix : Nat} :
    decodeCode bs = .ok (z, suffix, rest) ↔
      z ≤ Config.ueMaxZeros ∧ suffix < 2 ^ z ∧ bs = codeBits z suffix ++ rest := by
  constructor
  · intro h
    unfold decodeCode at h
    split at h
    · cases h
    next z' mid hzeros =>
      split at h
      · cases h
      next s' after hsuffix =>
        obtain ⟨rfl, rfl, rfl⟩ : z' = z ∧ s' = suffix ∧ after = rest := by simpa using h
        obtain ⟨k, hk, rfl, rfl⟩ := codeZeros_eq_ok.mp hzeros
        obtain ⟨hlt, rfl⟩ := takeNat_zero_eq_ok.mp hsuffix
        exact ⟨by omega, hlt, by simp [codeBits]⟩
  · rintro ⟨hz, hlt, rfl⟩
    have hzeros : codeZeros Config.ueMaxZeros 0 (codeBits z suffix ++ rest) = .ok (z, natToBits z suffix ++ rest) :=
      codeZeros_eq_ok.mpr ⟨z, hz, by omega, by simp [codeBits]⟩
    simp only [decodeCode, hzeros, takeNat_zero_eq_ok.mpr ⟨hlt, rfl⟩]

theorem decodeCode_eq_malformed {bs : List Bool} :
    decodeCode bs = .error .malformed ↔ List.replicate (Config.ueMaxZeros + 1) false <+: bs := by
  rw [← codeZeros_eq_malformed (z := 0)]
  unfold decodeCode
  split
  next e hzeros => simp [hzeros]
  next z mid hzeros =>
    split
    next e hsuffix => simp [hzeros, (takeNat_eq_error hsuffix).1]
    next => simp [hzeros]

/-- 25 bits hold the longest code word, so a longer string is only ever malformed. -/
theorem decodeCode_eq_error {bs : List Bool} {e : Reject} (h : decodeCode bs = .error e) :
    e = .malformed ∨ bs.length < 2 * Config.ueMaxZeros + 1 := by
  unfold decodeCode at h
  split at h
  next e' hzeros =>
    cases h
    exact (codeZeros_eq_error hzeros).imp_right (by omega)
  next z mid hzeros =>
    split at h
    next e' hsuffix =>
      obtain ⟨k, hk, rfl, rfl⟩ := codeZeros_eq_ok.mp hzeros
      have := (takeNat_eq_error hsuffix).2
      simp only [List.length_append, List.length_replicate, List.length_cons]
      omega
    next => cases h

/-! ## Rows of the UE table -/

/-- Format UE holds the thirteen rows of code words, each with any suffix of its width, and `UE.malformed`. -/
theorem encode_eq_ue {i : Instr} {bits : List Bool} :
    encode i = .stream .ue bits ↔
      (∃ z ≤ Config.ueMaxZeros, ∃ suffix < 2 ^ z, i = codeInstr z suffix ∧ bits = codeBits z suffix) ∨
        i = .ueMalformed ∧ bits = List.replicate (Config.ueMaxZeros + 1) false := by
  constructor
  · intro h
    cases i <;> simp only [encode, Encoded.stream.injEq, reduceCtorEq, false_and, true_and] at h <;> subst h
    case ueZ0 => exact .inl ⟨0, by decide, 0, by decide, rfl, rfl⟩
    case ueMalformed => exact .inr ⟨rfl, rfl⟩
    all_goals
      next s => exact .inl ⟨_, by decide, s.toNat, s.isLt, by simp [codeInstr], rfl⟩
  · rintro (⟨z, hz, suffix, hlt, rfl, rfl⟩ | ⟨rfl, rfl⟩)
    · have hs : (BitVec.ofNat z suffix).toNat = suffix := by simpa using Nat.mod_eq_of_lt hlt
      unfold Config.ueMaxZeros at hz
      interval_cases z
      · obtain rfl : suffix = 0 := by simpa using hlt
        rfl
      all_goals exact congrArg (fun n => Encoded.stream .ue (codeBits _ n)) hs
    · rfl

theorem codeInstr_wellFormed (z suffix : Nat) : (codeInstr z suffix).WellFormed := by
  unfold codeInstr
  split <;> rfl

theorem wellFormed_of_encode_ue {i : Instr} {bits : List Bool} (h : encode i = .stream .ue bits) :
    i.WellFormed := by
  rcases encode_eq_ue.mp h with ⟨z, -, suffix, -, rfl, -⟩ | ⟨rfl, -⟩
  · exact codeInstr_wellFormed z suffix
  · rfl

theorem decodeUe_eq_ok {bs rest : List Bool} {i : Instr} :
    decodeUe bs = .ok (i, rest) ↔ ∃ bits, encode i = .stream .ue bits ∧ bs = bits ++ rest := by
  constructor
  · intro h
    unfold decodeUe at h
    split at h
    next z suffix after hcode =>
      obtain ⟨rfl, rfl⟩ : codeInstr z suffix = i ∧ after = rest := by simpa using h
      obtain ⟨hz, hlt, rfl⟩ := decodeCode_eq_ok.mp hcode
      exact ⟨_, encode_eq_ue.mpr (.inl ⟨z, hz, suffix, hlt, rfl, rfl⟩), rfl⟩
    next hcode =>
      obtain ⟨rfl, rfl⟩ : Instr.ueMalformed = i ∧ bs.drop (Config.ueMaxZeros + 1) = rest := by simpa using h
      obtain ⟨after, rfl⟩ := decodeCode_eq_malformed.mp hcode
      exact ⟨_, rfl, by simp⟩
    · cases h
  · rintro ⟨bits, henc, rfl⟩
    rcases encode_eq_ue.mp henc with ⟨z, hz, suffix, hlt, rfl, rfl⟩ | ⟨rfl, rfl⟩
    · simp only [decodeUe, decodeCode_eq_ok.mpr ⟨hz, hlt, rfl⟩]
    · simp [decodeUe, decodeCode_eq_malformed.mpr (List.prefix_append _ rest)]

/-- Of 25 bits and more a code word is never cut off. -/
theorem decodeUe_of_long {bs : List Bool} (h : 25 ≤ bs.length) : ∃ i rest, decodeUe bs = .ok (i, rest) := by
  unfold decodeUe
  split
  · exact ⟨_, _, rfl⟩
  · exact ⟨_, _, rfl⟩
  next e hne hcode =>
    rcases decodeCode_eq_error hcode with rfl | hshort
    · exact absurd rfl hne
    · exact absurd hshort (by simpa [Config.ueMaxZeros] using h)

/-! ## The value of a code word -/

theorem log2_codeValue_succ {z suffix : Nat} (h : suffix < 2 ^ z) : (codeValue z suffix + 1).log2 = z := by
  have := Nat.two_pow_pos z
  rw [Nat.log2_eq_iff (by omega), pow_succ]
  unfold codeValue
  omega

/-- Row `z` of R98 with suffix x is the word of 2^z - 1 + x. -/
theorem valueBits_codeValue {z suffix : Nat} (h : suffix < 2 ^ z) :
    valueBits (codeValue z suffix) = codeBits z suffix := by
  have := Nat.two_pow_pos z
  rw [valueBits, log2_codeValue_succ h]
  congr 1
  unfold codeValue
  omega

theorem codeValue_le {z suffix : Nat} (hz : z ≤ Config.ueMaxZeros) (h : suffix < 2 ^ z) :
    codeValue z suffix ≤ 8190 := by
  have : 2 ^ z ≤ 2 ^ 12 := Nat.pow_le_pow_right (by decide) hz
  unfold codeValue
  omega

theorem exists_codeValue (v : Nat) : ∃ suffix < 2 ^ (v + 1).log2, codeValue (v + 1).log2 suffix = v := by
  have hle := Nat.log2_self_le (n := v + 1) (by omega)
  have hlt := Nat.lt_log2_self (n := v + 1)
  rw [pow_succ] at hlt
  exact ⟨v + 1 - 2 ^ (v + 1).log2, by omega, by unfold codeValue; omega⟩

/-- Reading a code word as its value takes exactly the word of that value. -/
theorem decodeCode_value_iff {bs rest : List Bool} {v : Nat} :
    (∃ z suffix, decodeCode bs = .ok (z, suffix, rest) ∧ codeValue z suffix = v) ↔
      v ≤ 8190 ∧ bs = valueBits v ++ rest := by
  constructor
  · rintro ⟨z, suffix, hcode, rfl⟩
    obtain ⟨hz, hlt, rfl⟩ := decodeCode_eq_ok.mp hcode
    exact ⟨codeValue_le hz hlt, by rw [valueBits_codeValue hlt]⟩
  · rintro ⟨hv, rfl⟩
    obtain ⟨suffix, hlt, hval⟩ := exists_codeValue v
    have hz : (v + 1).log2 < 13 := (Nat.log2_lt (by omega)).mpr (by omega)
    have hbits := valueBits_codeValue hlt
    rw [hval] at hbits
    exact ⟨_, suffix, decodeCode_eq_ok.mpr ⟨by unfold Config.ueMaxZeros; omega, hlt, by rw [hbits]⟩, hval⟩

theorem decodeCode_valueBits {v : Nat} (hv : v ≤ 8190) (rest : List Bool) :
    ∃ z suffix, decodeCode (valueBits v ++ rest) = .ok (z, suffix, rest) ∧ codeValue z suffix = v :=
  decodeCode_value_iff.mpr ⟨hv, rfl⟩

theorem valueBits_length (v : Nat) : (valueBits v).length = 2 * (v + 1).log2 + 1 := codeBits_length _ _

end Sys2Proof
end

section
/-! SUPPORT. Tokens, headers and commands: what their decoders answer on which bits and select codes. -/

namespace Sys2Proof

/-! ## Tokens (R99, R100) -/

theorem encode_eq_tok {i : Instr} {bits : List Bool} :
    encode i = .stream .tok bits ↔ ∃ run value, i = .tok run value ∧ bits = tokenBits run value := by
  cases i <;> simp [encode, eq_comm]

/-- The value that a magnitude and its sign bit stand for (R99). -/
def signed (sign : Bool) (magnitude : Nat) : Int := if sign then -(magnitude : Int) else magnitude

@[simp] theorem natAbs_signed (sign : Bool) (m : Nat) : (signed sign m).natAbs = m := by cases sign <;> simp [signed]

theorem tokenBits_zero (run : Nat) : tokenBits run 0 = valueBits run ++ valueBits 0 := by simp [tokenBits]

theorem tokenBits_signed {run m : Nat} (sign : Bool) (hm : m ≠ 0) :
    tokenBits run (signed sign m) = valueBits run ++ valueBits m ++ [sign] := by
  have hzero : signed sign m ≠ 0 := fun h => hm (by simpa using congrArg Int.natAbs h)
  have hsign : decide (signed sign m < 0) = sign := by cases sign <;> simp [signed]; omega
  simp [tokenBits, hzero, hsign]

theorem signed_natAbs (value : Int) : signed (decide (value < 0)) value.natAbs = value := by
  unfold signed
  split <;> rename_i h <;> simp only [decide_eq_true_eq] at h <;> omega

/-- A token of magnitude 0 ends with its second code word (R99). -/
theorem decodeTok_of_zero {bs mid rest : List Bool} {zr sr zm sm : Nat} (hrun : decodeCode bs = .ok (zr, sr, mid))
    (hmag : decodeCode mid = .ok (zm, sm, rest)) (hzero : codeValue zm sm = 0) :
    decodeTok bs = .ok (.tok (codeValue zr sr) 0, rest) := by
  simp [decodeTok, hrun, hmag, hzero]

/-- Any other magnitude takes its sign from the bit after it (R99). -/
theorem decodeTok_of_sign {bs mid rest : List Bool} {zr sr zm sm : Nat} {sign : Bool}
    (hrun : decodeCode bs = .ok (zr, sr, mid)) (hmag : decodeCode mid = .ok (zm, sm, sign :: rest))
    (hne : codeValue zm sm ≠ 0) :
    decodeTok bs = .ok (.tok (codeValue zr sr) (signed sign (codeValue zm sm)), rest) := by
  simp [decodeTok, hrun, hmag, hne, signed]

theorem decodeTok_tokenBits {run : Nat} {value : Int} (h : Instr.tokenFits run value) (rest : List Bool) :
    decodeTok (tokenBits run value ++ rest) = .ok (.tok run value, rest) := by
  obtain ⟨hr, hm⟩ := h
  by_cases hv : value = 0
  · subst hv
    rw [tokenBits_zero, List.append_assoc]
    obtain ⟨zm, sm, hmag, hval⟩ := decodeCode_valueBits hm rest
    obtain ⟨zr, sr, hrun, rfl⟩ := decodeCode_valueBits hr (valueBits 0 ++ rest)
    exact decodeTok_of_zero hrun hmag hval
  · have hne : value.natAbs ≠ 0 := Int.natAbs_ne_zero.mpr hv
    obtain ⟨sign, hsigned⟩ : ∃ sign, signed sign value.natAbs = value := ⟨_, signed_natAbs value⟩
    rw [← hsigned, tokenBits_signed sign hne, List.append_assoc, List.append_assoc]
    obtain ⟨zm, sm, hmag, hval⟩ := decodeCode_valueBits hm (sign :: rest)
    obtain ⟨zr, sr, hrun, rfl⟩ := decodeCode_valueBits hr (valueBits value.natAbs ++ sign :: rest)
    rw [← hval] at hne hmag hrun ⊢
    exact decodeTok_of_sign hrun hmag hne

/-- A token is decoded exactly: each pair has one encoding, and the decoder takes that (R99, R100). -/
theorem decodeTok_eq_ok {bs rest : List Bool} {i : Instr} :
    decodeTok bs = .ok (i, rest) ↔
      ∃ run value, Instr.tokenFits run value ∧ i = .tok run value ∧ bs = tokenBits run value ++ rest := by
  constructor
  · intro h
    unfold decodeTok at h
    split at h
    · cases h
    next zr sr mid hrun =>
      split at h
      · cases h
      next zm sm after hmag =>
        obtain ⟨hr, rfl⟩ := decodeCode_value_iff.mp ⟨_, _, hrun, rfl⟩
        obtain ⟨hm, rfl⟩ := decodeCode_value_iff.mp ⟨_, _, hmag, rfl⟩
        split at h
        next hzero =>
          cases h
          exact ⟨_, 0, ⟨hr, by decide⟩, rfl, by simp [tokenBits_zero, hzero]⟩
        next hne =>
          split at h
          · cases h
          next after sign _ =>
            cases h
            exact ⟨_, signed sign _, ⟨hr, by simpa using hm⟩, rfl, by simp [tokenBits_signed sign hne]⟩
  · rintro ⟨run, value, hfits, rfl, rfl⟩
    exact decodeTok_tokenBits hfits rest

/-! ## Headers (R93, R94) -/

theorem encode_eq_hdr {i : Instr} {bits : List Bool} :
    encode i = .stream .hdr bits ↔ ∃ h, i = .hdr h ∧ bits = headerBits h := by
  cases i <;> simp [encode, eq_comm]

/-- The bits of fields of one width, one after another. -/
def wordsBits {w : Nat} (l : List (BitVec w)) : List Bool := l.flatMap fun b => natToBits w b.toNat

/-- One field: any word of its width, and nothing else, is read. -/
theorem takeNat_zero_eq_ok_word {w v : Nat} {bs rest : List Bool} :
    takeNat w 0 bs = .ok (v, rest) ↔ ∃ b : BitVec w, b.toNat = v ∧ bs = natToBits w b.toNat ++ rest := by
  rw [takeNat_zero_eq_ok]
  constructor
  · rintro ⟨hlt, rfl⟩
    exact ⟨⟨v, hlt⟩, rfl, rfl⟩
  · rintro ⟨b, rfl, rfl⟩
    exact ⟨b.isLt, rfl⟩

theorem takeNat_natToBits {w : Nat} (b : BitVec w) (rest : List Bool) :
    takeNat w 0 (natToBits w b.toNat ++ rest) = .ok (b.toNat, rest) :=
  takeNat_zero_eq_ok_word.mpr ⟨b, rfl, rfl⟩

/-- A run of fields of one width: any words of that number and width, and nothing else, are read. -/
theorem takeFields_eq_ok {w count : Nat} {vs : List Nat} {bs rest : List Bool} :
    takeFields w count bs = .ok (vs, rest) ↔
      ∃ l : List (BitVec w), l.length = count ∧ l.map BitVec.toNat = vs ∧ bs = wordsBits l ++ rest := by
  induction count generalizing vs bs with
  | zero => simp [takeFields, wordsBits, eq_comm]
  | succ count ih =>
    constructor
    · intro h
      unfold takeFields at h
      split at h
      · cases h
      next v mid hv =>
        split at h
        · cases h
        next ws after hws =>
          cases h
          obtain ⟨b, rfl, rfl⟩ := takeNat_zero_eq_ok_word.mp hv
          obtain ⟨l, rfl, rfl, rfl⟩ := ih.mp hws
          exact ⟨b :: l, rfl, rfl, by simp [wordsBits]⟩
    · rintro ⟨l, hlen, rfl, rfl⟩
      obtain ⟨b, l, rfl⟩ := List.exists_cons_of_length_eq_add_one hlen
      have htail : takeFields w count (wordsBits l ++ rest) = .ok (l.map BitVec.toNat, rest) :=
        ih.mpr ⟨l, Nat.succ.inj hlen, rfl, rfl⟩
      have hbits : wordsBits (b :: l) ++ rest = natToBits w b.toNat ++ (wordsBits l ++ rest) := by simp [wordsBits]
      simp [takeFields, hbits, takeNat_natToBits, htail]

theorem takeFields_wordsBits {w count : Nat} {l : List (BitVec w)} (hlen : l.length = count) (rest : List Bool) :
    takeFields w count (wordsBits l ++ rest) = .ok (l.map BitVec.toNat, rest) :=
  takeFields_eq_ok.mpr ⟨l, hlen, rfl, rfl⟩

theorem map_ofNat_map_toNat {w : Nat} (l : List (BitVec w)) : (l.map BitVec.toNat).map (BitVec.ofNat w) = l := by
  simp [Function.comp_def]

/-- The ten scalar fields of a header, in the order of R93. -/
def HdrFields.scalars (f : HdrFields) : List U16 :=
  [f.numChannels, f.numSubbands, f.numWavelets, f.imageWidth, f.imageHeight, f.patternWidth, f.patternHeight,
    f.formatTag, f.bitsPerComponent, f.lowpassPrecision]

/-- A header is the runs of fields its decoder reads. -/
theorem headerBits_eq (h : HeaderWord) :
    headerBits h =
      wordsBits h.fields.scalars ++ (wordsBits h.fields.sequenceId.toList ++
        (natToBits 32 h.fields.sequenceNumber.toNat ++ wordsBits h.quant)) := by
  simp [headerBits, HdrFields.scalars, wordsBits]

/-- Any words of the right number are the fields of a record. -/
theorem exists_hdrFields {scalars : List U16} {ids : List Byte} (hs : scalars.length = 10) (hi : ids.length = 16)
    (number : U32) :
    ∃ f : HdrFields, f.scalars = scalars ∧ f.sequenceId.toList = ids ∧ f.sequenceNumber = number := by
  match scalars, hs with
  | [a, b, c, d, e, f, g, h, i, j], _ =>
    exact ⟨⟨a, b, c, d, e, f, g, h, i, j, ⟨ids.toArray, hi⟩, number⟩, rfl, rfl, rfl⟩

/-- The record made of a record's own numbers is that record. -/
theorem headerFields_self (f : HdrFields) :
    headerFields (f.scalars.map BitVec.toNat) (f.sequenceId.toList.map BitVec.toNat) f.sequenceNumber.toNat = f := by
  have hids : (Vector.ofFn fun k : Fin 16 =>
      BitVec.ofNat 8 ((f.sequenceId.toList.map BitVec.toNat).getD k.val 0)) = f.sequenceId := by
    ext k hk
    simp
  rw [headerFields, hids]
  simp [HdrFields.scalars]

/-- A header is decoded exactly, with as many quantization entries as its `numSubbands` asks for (R93). -/
theorem decodeHdr_eq_ok {bs rest : List Bool} {i : Instr} :
    decodeHdr bs = .ok (i, rest) ↔ ∃ h : HeaderWord, h.wf ∧ i = .hdr h ∧ bs = headerBits h ++ rest := by
  constructor
  · intro h
    unfold decodeHdr at h
    split at h
    · cases h
    next scalars mid₁ hscalars =>
      split at h
      · cases h
      next ids mid₂ hids =>
        split at h
        · cases h
        next number mid₃ hnumber =>
          split at h
          · cases h
          next quant after hquant =>
            cases h
            obtain ⟨scalars, hslen, rfl, rfl⟩ := takeFields_eq_ok.mp hscalars
            obtain ⟨ids, hilen, rfl, rfl⟩ := takeFields_eq_ok.mp hids
            obtain ⟨number, rfl, rfl⟩ := takeNat_zero_eq_ok_word.mp hnumber
            obtain ⟨quant, hqlen, rfl, rfl⟩ := takeFields_eq_ok.mp hquant
            obtain ⟨f, rfl, rfl, rfl⟩ := exists_hdrFields hslen hilen number
            rw [headerFields_self] at hqlen ⊢
            exact ⟨⟨f, quant⟩, hqlen, by rw [map_ofNat_map_toNat], by simp [headerBits_eq]⟩
  · rintro ⟨⟨f, quant⟩, hwf, rfl, rfl⟩
    have hids := takeFields_wordsBits (count := Config.seqIdBytes) (Vector.length_toList (xs := f.sequenceId))
    rw [headerBits_eq]
    simp only [List.append_assoc]
    simp only [decodeHdr, takeFields_wordsBits (show f.scalars.length = 10 from rfl), hids, takeNat_natToBits,
      headerFields_self, takeFields_wordsBits hwf, map_ofNat_map_toNat]

/-! ## Commands (R91, R92) -/

theorem decodeCommand_encode {i : Instr} {code : BitVec 8} {p : Ports} (h : encode i = .command code p) :
    decodeCommand code p = .ok i := by
  cases i <;> cases h <;> rfl

/-- The select codes of R91. -/
def selectCodes : List Nat :=
  [0x00, 0x01, 0x02, 0x03, 0x04, 0x10, 0x11, 0x12, 0x20, 0x30, 0x31, 0x40, 0x41, 0x42, 0x43, 0x44, 0x50, 0x51, 0x52,
    0x53, 0x54, 0x55, 0x56, 0x57, 0x60, 0x61, 0x70, 0x71]

theorem decodeCommand_unlisted {code : BitVec 8} (p : Ports) (h : code.toNat ∉ selectCodes) :
    decodeCommand code p = .error (.badCommand code) := by
  unfold decodeCommand
  split
  case h_29 => rfl
  all_goals exact absurd (by decide) h

/-! ## Stream words -/

/-- What each format's decoder takes is the encoding of a well-formed word of that format. -/
theorem decodeStream_eq_ok {f : Format} {bs rest : List Bool} {i : Instr} :
    decodeStream f bs = .ok (i, rest) ↔ i.WellFormed ∧ ∃ bits, encode i = .stream f bits ∧ bs = bits ++ rest := by
  cases f with
  | hdr =>
    rw [decodeStream, decodeHdr_eq_ok]
    constructor
    · rintro ⟨h, hwf, rfl, hbs⟩
      exact ⟨decide_eq_true hwf, _, rfl, hbs⟩
    · rintro ⟨hwf, bits, henc, hbs⟩
      obtain ⟨h, rfl, rfl⟩ := encode_eq_hdr.mp henc
      exact ⟨h, of_decide_eq_true hwf, rfl, hbs⟩
  | ue =>
    rw [decodeStream, decodeUe_eq_ok]
    exact ⟨fun ⟨bits, henc, hbs⟩ => ⟨wellFormed_of_encode_ue henc, bits, henc, hbs⟩, And.right⟩
  | tok =>
    rw [decodeStream, decodeTok_eq_ok]
    constructor
    · rintro ⟨run, value, hfits, rfl, hbs⟩
      exact ⟨decide_eq_true hfits, _, rfl, hbs⟩
    · rintro ⟨hwf, bits, henc, hbs⟩
      obtain ⟨run, value, rfl, rfl⟩ := encode_eq_tok.mp henc
      exact ⟨run, value, of_decide_eq_true hwf, rfl, hbs⟩

end Sys2Proof
end

section
/-! THE STATEMENTS of `30_encoding.md`, settled. -/

namespace Sys2Proof.Settled

/-- Settles O1: a select code by its row of R91, a stream word by what its decoder takes. -/
theorem decodeOfEncode : Obligations.DecodeOfEncode := by
  unfold Obligations.DecodeOfEncode
  intro i hwf
  cases henc : encode i with
  | command code p => exact decodeCommand_encode henc
  | stream f bits =>
    have hword : decodeStream f bits = .ok (i, []) := decodeStream_eq_ok.mpr ⟨hwf, bits, henc, by simp⟩
    simp [decode, hword, Except.map]

/-- Settles O2, format by format: each decoder's answers are characterised both ways, so the encoding is unique. -/
theorem streamDecodeExact : Obligations.StreamDecodeExact := by
  unfold Obligations.StreamDecodeExact
  exact fun f bs rest i => decodeStream_eq_ok

/-- Settles O3: of two words one of which starts the other, the decoder reads both off the longer one. -/
theorem codeWordsPrefixFree : Obligations.CodeWordsPrefixFree := by
  unfold Obligations.CodeWordsPrefixFree
  refine ⟨fun i j x y hi hj ⟨rest, hy⟩ => ?_, fun bs hlen => ?_⟩
  · have hi' : decodeUe y = .ok (i, rest) := decodeUe_eq_ok.mpr ⟨x, hi, hy.symm⟩
    have hj' : decodeUe y = .ok (j, []) := decodeUe_eq_ok.mpr ⟨y, hj, by simp⟩
    exact congrArg Prod.fst (Except.ok.inj (hi'.symm.trans hj'))
  · obtain ⟨i, rest, h⟩ := decodeUe_of_long hlen
    obtain ⟨bits, henc, hbs⟩ := decodeUe_eq_ok.mp h
    exact ⟨i, bits, henc, rest, hbs.symm⟩

/-- Settles O4: the row of R98 for k zeros with suffix x is the word of the value 2^k - 1 + x. -/
theorem codeWordTable : Obligations.CodeWordTable := by
  unfold Obligations.CodeWordTable
  have row (k : Nat) (x : BitVec k) :
      Encoded.stream .ue (codeBits k x.toNat) = .stream .ue (valueBits (codeValue k x.toNat)) :=
    congrArg _ (valueBits_codeValue x.isLt).symm
  exact ⟨row 0 0, row 1, row 2, row 3, row 4, row 5, row 6, row 7, row 8, row 9, row 10, row 11, row 12,
    valueBits_length⟩

/-- Settles O5: the listed words are evaluated, and every select code outside R91's list falls to the last arm. -/
theorem specWordsDecode : Obligations.SpecWordsDecode := by
  unfold Obligations.SpecWordsDecode
  refine ⟨fun _ => rfl, fun _ => rfl, fun _ => rfl, fun _ => rfl, by decide, by decide, by decide, by decide,
    fun code p => ?_⟩
  by_cases h : code.toNat ∈ selectCodes
  · exact .inl h
  · exact .inr (decodeCommand_unlisted p h)

end Sys2Proof.Settled
end

section
/-! SUPPORT. The bit reader: the bits that stand at POS, which readers answer what on which bits, and where a reader
meets the end of the buffer or a malformed code word. -/

namespace Sys2Proof.Machine

/-! ## Bits as numbers -/

theorem takeNat_foldl (acc : Nat) (bs : List Bool) :
    takeNat bs.length acc bs = .ok (bs.foldl (fun v b => 2 * v + b.toNat) acc, []) := by
  induction bs generalizing acc with
  | nil => rfl
  | cons b bs ih => exact ih _

theorem bitsToNat_spec (bs : List Bool) :
    bitsToNat bs < 2 ^ bs.length ∧ natToBits bs.length (bitsToNat bs) = bs := by
  obtain ⟨hlt, hbs⟩ := takeNat_zero_eq_ok.mp (takeNat_foldl 0 bs)
  exact ⟨hlt, ((List.append_nil _).symm.trans hbs.symm)⟩

theorem bitsToNat_natToBits {n v : Nat} (hv : v < 2 ^ n) : bitsToNat (natToBits n v) = v := by
  have hfold := takeNat_foldl 0 (natToBits n v)
  rw [natToBits_length, takeNat_zero_eq_ok.mpr ⟨hv, (List.append_nil _).symm⟩] at hfold
  exact (congrArg Prod.fst (Except.ok.inj hfold)).symm

/-- The most significant bit stands first (`20_memory.md` R61). -/
theorem natToBits_getElem? {n k : Nat} (v : Nat) (hk : k < n) : (natToBits n v)[n - 1 - k]? = some (v.testBit k) := by
  induction n with
  | zero => omega
  | succ n ih =>
    obtain rfl | hlt := Nat.eq_or_lt_of_le (Nat.le_of_lt_succ hk)
    · simp [natToBits]
    · rw [natToBits, show n + 1 - 1 - k = (n - 1 - k) + 1 by omega, List.getElem?_cons_succ, ih hlt]

/-- Bit `k` of the number read is the bit `k` places before the last. -/
theorem testBit_bitsToNat {bs : List Bool} {k : Nat} (hk : k < bs.length) :
    bs[bs.length - 1 - k]? = some ((bitsToNat bs).testBit k) := by
  conv_lhs => rw [← (bitsToNat_spec bs).2, natToBits_length]
  exact natToBits_getElem? _ hk

/-! ## The bits at POS -/

variable {α β : Type} {s : State} {x : Op α} {f g : α → Op β} {a : α} {b : β} {bits pre post : List Bool}

/-- POS moved on by `n` bits. -/
abbrev advance (n : Nat) (s : State) : State := setPos (s.pos + n) s

theorem advance_advance (m n : Nat) (s : State) : advance n (advance m s) = advance (m + n) s :=
  congrArg (setPos · s) (Nat.add_assoc _ _ _)

theorem streamRest_advance (n : Nat) (s : State) : streamRest (advance n s) = (streamRest s).drop n := by
  simp [streamRest, streamBits, ← List.map_drop, List.drop_range', Nat.sub_add_eq]

theorem streamRest_length (s : State) : (streamRest s).length = streamEnd s - s.pos := streamBits_length _ _ _

/-- The bits `bits` stand at POS, before the end of the buffer. -/
def StandsAt (bits : List Bool) (s : State) : Prop :=
  s.pos + bits.length ≤ streamEnd s ∧ streamBits s s.pos bits.length = bits

theorem StandsAt.of_streamRest (h : streamRest s = bits ++ post) (hb : bits ≠ []) : StandsAt bits s := by
  have hlen := streamRest_length s
  have hpos := List.length_pos_iff.mpr hb
  rw [h, List.length_append] at hlen
  have hfits : s.pos + bits.length ≤ streamEnd s := by omega
  rw [streamRest_split hfits] at h
  exact ⟨hfits, (List.append_inj h (streamBits_length _ _ _)).1⟩

theorem standsAt_append : StandsAt (pre ++ post) s ↔ StandsAt pre s ∧ StandsAt post (advance pre.length s) := by
  have hsplit : streamBits s s.pos (pre ++ post).length =
      streamBits s s.pos pre.length ++ streamBits s (s.pos + pre.length) post.length := by
    simp [streamBits, ← List.range'_append_1]
  simp only [StandsAt, setPos_pos, streamEnd_setPos, streamBits_setPos]
  constructor
  · rintro ⟨hfits, hbits⟩
    obtain ⟨hpre, hpost⟩ := List.append_inj (hsplit ▸ hbits) (streamBits_length _ _ _)
    rw [List.length_append] at hfits
    exact ⟨⟨by omega, hpre⟩, by omega, hpost⟩
  · rintro ⟨⟨-, hpre⟩, hfits, hpost⟩
    exact ⟨by rw [List.length_append]; omega, by rw [hsplit, hpre, hpost]⟩

/-! ## Reading bits that are there -/

/-- Where `n` bits more are in the buffer, `op` answers `a` and moves POS by `n`, whatever the bits are. -/
def Takes (n : Nat) (a : α) (op : Op α) : Prop := ∀ s, s.pos + n ≤ streamEnd s → op s = .ok a (advance n s)

/-- Where `bits` stand at POS, `op` answers `a` and moves POS over them. -/
def Reads (bits : List Bool) (a : α) (op : Op α) : Prop :=
  ∀ s, StandsAt bits s → op s = .ok a (advance bits.length s)

theorem Takes.reads (h : Takes bits.length a x) : Reads bits a x := fun s hs => h s hs.1

theorem takes_pure (a : α) : Takes 0 a (pure a) := fun _ _ => rfl
theorem reads_pure (a : α) : Reads [] a (pure a) := fun _ _ => rfl

theorem Takes.bind {m n : Nat} (hx : Takes m a x) (hf : Takes n b (f a)) : Takes (m + n) b (x >>= f) := by
  intro s hs
  rw [op_bind_of_ok (hx s (by omega)), hf _ (by simp only [setPos_pos, streamEnd_setPos]; omega), advance_advance]

theorem Reads.bind (hx : Reads pre a x) (hf : Reads post b (f a)) : Reads (pre ++ post) b (x >>= f) := by
  intro s hs
  obtain ⟨hpre, hpost⟩ := standsAt_append.mp hs
  rw [op_bind_of_ok (hx s hpre), hf _ hpost, advance_advance, List.length_append]

/-- A last step that only makes the answer from what was read. -/
theorem Takes.map {n : Nat} (hx : Takes n a x) (g : α → β) : Takes n (g a) (x >>= fun a => pure (g a)) :=
  fun s hs => op_bind_of_ok (hx s hs)

theorem Reads.map (hx : Reads bits a x) (g : α → β) : Reads bits (g a) (x >>= fun a => pure (g a)) :=
  fun s hs => op_bind_of_ok (hx s hs)

theorem takes_takeBits (n : Nat) : Takes n () (takeBits n) := fun _ => takeBits_fits

theorem reads_bitRead {n v : Nat} (hn : n ≤ 32) (hv : v < 2 ^ n) : Reads (natToBits n v) v (bitRead n) := by
  rintro s ⟨hfits, hbits⟩
  rw [natToBits_length] at hfits hbits ⊢
  rw [bitRead_fits hn hfits, hbits, bitsToNat_natToBits hv]

theorem reads_bit (b : Bool) : Reads [b] b.toNat (bitRead 1) := by
  cases b
  · exact reads_bitRead (n := 1) (v := 0) (by decide) (by decide)
  · exact reads_bitRead (n := 1) (v := 1) (by decide) (by decide)

/-! ## Errors of a reader -/

/-- The outcome of an operation from `s` that consumed `k` bits and then raised `c` with POS as its info. -/
abbrev raisedAt (c : Cause) (k : Nat) (s : State) : EStateM.Result Stop State α :=
  .error .raised (takeError c (s.pos + k) (advance k s))

theorem bind_raisedAt_of_ok {c : Cause} {m k : Nat} (hx : x s = .ok a (advance m s))
    (hf : f a (advance m s) = raisedAt c k (advance m s)) : (x >>= f) s = raisedAt c (m + k) s := by
  rw [op_bind_of_ok hx, hf, raisedAt, advance_advance, setPos_pos, Nat.add_assoc]

/-- Where `bits` stand at POS, `op` consumes them all and raises MalformedCode. -/
def Malformed (bits : List Bool) (op : Op α) : Prop :=
  ∀ s, StandsAt bits s → op s = raisedAt .malformedCode bits.length s

theorem Malformed.bind (hx : Malformed bits x) (f : α → Op β) : Malformed bits (x >>= f) := fun s hs =>
  op_bind_of_error (hx s hs)

theorem Malformed.after (hx : Reads pre a x) (hf : Malformed post (f a)) : Malformed (pre ++ post) (x >>= f) := by
  intro s hs
  obtain ⟨hpre, hpost⟩ := standsAt_append.mp hs
  rw [bind_raisedAt_of_ok (hx s hpre) (hf _ hpost), List.length_append]

/-- Where `bits` are all that is left of the buffer, `op` consumes `k` of them and the read that follows does not
fit. -/
def Overruns (bits : List Bool) (k : Nat) (op : Op α) : Prop :=
  ∀ s, streamRest s = bits → op s = raisedAt .readerOverrun k s

theorem Overruns.bind {k : Nat} (hx : Overruns bits k x) (f : α → Op β) : Overruns bits k (x >>= f) := fun s hs =>
  op_bind_of_error (hx s hs)

theorem Overruns.after {k : Nat} (hpre : pre ≠ []) (hx : Reads pre a x) (hf : Overruns post k (f a)) :
    Overruns (pre ++ post) (pre.length + k) (x >>= f) := by
  intro s hs
  refine bind_raisedAt_of_ok (hx s (.of_streamRest hs hpre)) (hf _ ?_)
  rw [streamRest_advance, hs, List.drop_left]

theorem overruns_bitRead {n : Nat} (hn : n ≤ 32) (hbits : bits.length < n) : Overruns bits 0 (bitRead n) := by
  intro s hs
  have hlen := streamRest_length s
  rw [hs] at hlen
  exact bitRead_overrun hn (by omega)

/-! ## The zeros of a code word (`40_bitreader_rlv.md` R125) -/

theorem reads_readZeros {left k : Nat} (z : Nat) (hk : k ≤ left) :
    Reads (List.replicate k false ++ [true]) (z + k) (readZeros left z) := by
  induction left generalizing k z with
  | zero =>
    obtain rfl : k = 0 := by omega
    exact (reads_bit true).bind (reads_pure z)
  | succ left ih =>
    cases k with
    | zero => exact (reads_bit true).bind (reads_pure z)
    | succ k =>
      have htail := ih (z + 1) (Nat.le_of_succ_le_succ hk)
      rw [Nat.add_assoc, Nat.add_comm 1] at htail
      exact (reads_bit false).bind htail

theorem malformed_readZeros (left z : Nat) : Malformed (List.replicate (left + 1) false) (readZeros left z) := by
  induction left generalizing z with
  | zero =>
    have hraise : Malformed [] (get >>= fun s => raise .malformedCode s.pos : Op Nat) := fun _ _ => rfl
    exact .after (reads_bit false) hraise
  | succ left ih => exact .after (reads_bit false) (ih (z + 1))

theorem overruns_readZeros {left k : Nat} (z : Nat) (hk : k ≤ left) :
    Overruns (List.replicate k false) k (readZeros left z) := by
  have hend (f : Nat → Op Nat) : Overruns [] 0 (bitRead 1 >>= f) := (overruns_bitRead (by decide) (by decide)).bind f
  induction left generalizing k z with
  | zero =>
    obtain rfl : k = 0 := by omega
    exact hend _
  | succ left ih =>
    cases k with
    | zero => exact hend _
    | succ k =>
      have htail := ih (z + 1) (Nat.le_of_succ_le_succ hk)
      have hcut : Overruns (List.replicate (k + 1) false) (1 + k) (readZeros (left + 1) z) := by
        refine Overruns.after (pre := [false]) (by simp) (reads_bit false) ?_
        exact htail
      rwa [Nat.add_comm 1 k] at hcut

/-! ## Code words -/

theorem codeBits_eq (z suffix : Nat) :
    codeBits z suffix = (List.replicate z false ++ [true]) ++ natToBits z suffix := by
  simp [codeBits]

theorem reads_readCode {z suffix : Nat} (hz : z ≤ Config.ueMaxZeros) (hs : suffix < 2 ^ z) :
    Reads (codeBits z suffix) (codeValue z suffix) readCode := by
  have hz32 : z ≤ 32 := by unfold Config.ueMaxZeros at hz; omega
  have hzeros := reads_readZeros 0 hz
  rw [Nat.zero_add] at hzeros
  rw [codeBits_eq]
  exact hzeros.bind ((reads_bitRead hz32 hs).map (codeValue z))

theorem malformed_readCode : Malformed (List.replicate 13 false) readCode := (malformed_readZeros 12 0).bind _

/-- A code word cut after `k` bits: inside its zeros or before its 1, or inside its suffix. -/
theorem overruns_readCode {z suffix k : Nat} (hz : z ≤ Config.ueMaxZeros) (hk : k < 2 * z + 1) :
    Overruns ((codeBits z suffix).take k) (if k ≤ z then k else z + 1) readCode := by
  split
  next hle =>
    rw [codeBits, List.take_append_of_le_length (by simpa using hle), List.take_replicate, Nat.min_eq_left hle]
    exact (overruns_readZeros 0 (hle.trans hz)).bind _
  next hgt =>
    have hz32 : z ≤ 32 := by unfold Config.ueMaxZeros at hz; omega
    have hzeros := reads_readZeros 0 hz
    rw [Nat.zero_add] at hzeros
    have hshort : ((natToBits z suffix).take (k - (z + 1))).length < z := by
      rw [List.length_take, natToBits_length]
      omega
    have hsuffix := (overruns_bitRead hz32 hshort).bind fun suffix => pure (codeValue z suffix)
    have hcut : Overruns _ _ readCode := .after (by simp) hzeros hsuffix
    rw [codeBits_eq, List.take_append, List.take_of_length_le (by simp; omega)]
    simpa using hcut

/-! ## Code words by their value -/

theorem log2_succ_le {v : Nat} (hv : v ≤ 8190) : (v + 1).log2 ≤ Config.ueMaxZeros :=
  Nat.le_of_lt_succ ((Nat.log2_lt (by omega)).mpr (by unfold Config.ueMaxZeros; omega))

theorem valueBits_ne_nil (v : Nat) : valueBits v ≠ [] := by simp [valueBits, codeBits]

theorem reads_readCode_value {v : Nat} (hv : v ≤ 8190) : Reads (valueBits v) v readCode := by
  obtain ⟨suffix, hlt, hval⟩ := exists_codeValue v
  have h := reads_readCode (log2_succ_le hv) hlt
  rwa [← valueBits_codeValue hlt, hval] at h

theorem overruns_readCode_value {v k : Nat} (hv : v ≤ 8190) (hk : k < (valueBits v).length) :
    Overruns ((valueBits v).take k) (codeCut v k) readCode :=
  overruns_readCode (log2_succ_le hv) (valueBits_length v ▸ hk)

theorem takes_takeSingles (n : Nat) : Takes n () (takeSingles n) := by
  induction n with
  | zero => exact takes_pure ()
  | succ n ih =>
    have htakes : Takes (1 + n) () (takeSingles (n + 1)) := (takes_takeBits 1).bind (f := fun _ => takeSingles n) ih
    rwa [Nat.add_comm 1 n] at htakes

theorem takes_consumeCode (z suffix : Nat) : Takes (2 * z + 1) (codeValue z suffix) (consumeCode z suffix) := by
  rw [show 2 * z + 1 = (z + 1) + z by omega]
  exact (takes_takeSingles (z + 1)).bind ((takes_takeBits z).map fun _ => codeValue z suffix)

theorem takes_consumeValue (v : Nat) : Takes (valueBits v).length v (consumeValue v) := by
  obtain ⟨suffix, hlt, hval⟩ := exists_codeValue v
  have hbits := valueBits_codeValue hlt
  have hsuffix : v + 1 - 2 ^ (v + 1).log2 = suffix := by
    have := Nat.two_pow_pos (v + 1).log2
    unfold codeValue at hval
    omega
  rw [consumeValue, hsuffix, valueBits_length]
  have h := takes_consumeCode (v + 1).log2 suffix
  rwa [hval] at h

/-! ## Tokens (R126) -/

/-- The bit of a token after its two code words (`30_encoding.md` R99). -/
def signBits (value : Int) : List Bool := if value = 0 then [] else [decide (value < 0)]

theorem tokenBits_eq (run : Nat) (value : Int) :
    tokenBits run value = valueBits run ++ (valueBits value.natAbs ++ signBits value) := List.append_assoc _ _ _

/-- What RLV.DECODE does after its two code words. -/
def readSign (run m : Nat) : Op (Nat × Int) :=
  if m = 0 then pure (run, 0) else bitRead 1 >>= fun sign => pure (run, if sign = 1 then -(m : Int) else m)

theorem readToken_eq : readToken = readCode >>= fun run => readCode >>= fun m => readSign run m := rfl

theorem reads_readSign (run : Nat) (value : Int) :
    Reads (signBits value) (run, value) (readSign run value.natAbs) := by
  by_cases hv : value = 0
  · subst hv
    exact reads_pure _
  · have hsigned := signed_natAbs value
    have hread := (reads_bit (decide (value < 0))).map fun sign =>
      (run, if sign = 1 then -(value.natAbs : Int) else value.natAbs)
    simp only [signed, Bool.toNat_eq_one] at hsigned hread
    rw [hsigned] at hread
    rwa [signBits, readSign, if_neg hv, if_neg (Int.natAbs_ne_zero.mpr hv)]

theorem reads_readToken {run : Nat} {value : Int} (h : Instr.tokenFits run value) :
    Reads (tokenBits run value) (run, value) readToken := by
  obtain ⟨hrun, hmag⟩ := h
  rw [tokenBits_eq, readToken_eq]
  exact (reads_readCode_value hrun).bind ((reads_readCode_value hmag).bind (reads_readSign run value))

theorem malformed_readToken_run : Malformed (List.replicate 13 false) readToken := malformed_readCode.bind _

theorem malformed_readToken_magnitude {run : Nat} (hrun : run ≤ 8190) :
    Malformed (valueBits run ++ List.replicate 13 false) readToken :=
  .after (reads_readCode_value hrun) (malformed_readCode.bind (readSign run))

/-- The second half of a token cut after `k` bits: inside its code word, or before its sign. -/
theorem overruns_readCode_readSign {run k : Nat} {value : Int} (hmag : value.natAbs ≤ 8190)
    (hk : k < (valueBits value.natAbs ++ signBits value).length) :
    Overruns ((valueBits value.natAbs ++ signBits value).take k)
      (if k < (valueBits value.natAbs).length then codeCut value.natAbs k else k)
      (readCode >>= fun m => readSign run m) := by
  rw [List.length_append] at hk
  split
  next hcode =>
    rw [List.take_append_of_le_length hcode.le]
    exact (overruns_readCode_value hmag hcode).bind _
  next hcode =>
    have hv : value ≠ 0 := by
      rintro rfl
      exact hcode (by simpa [signBits] using hk)
    have hsign : (signBits value).length = 1 := by simp [signBits, hv]
    have hend : Overruns [] 0 (readSign run value.natAbs) := by
      rw [readSign, if_neg (Int.natAbs_ne_zero.mpr hv)]
      exact (overruns_bitRead (by decide) (by decide)).bind _
    have hcut := Overruns.after (f := readSign run) (valueBits_ne_nil _) (reads_readCode_value hmag) hend
    obtain rfl : k = (valueBits value.natAbs).length := by omega
    simpa using hcut

/-- A token cut after `k` bits: inside its first code word, or after it. -/
theorem overruns_readToken {run k : Nat} {value : Int} (h : Instr.tokenFits run value)
    (hk : k < (tokenBits run value).length) :
    Overruns ((tokenBits run value).take k) (tokenCut run value k) readToken := by
  obtain ⟨hrun, hmag⟩ := h
  rw [tokenBits_eq] at hk ⊢
  rw [readToken_eq]
  by_cases hfirst : k < (valueBits run).length
  · rw [List.take_append_of_le_length hfirst.le, tokenCut, if_pos hfirst]
    exact (overruns_readCode_value hrun hfirst).bind _
  · obtain ⟨j, rfl⟩ := Nat.exists_eq_add_of_le (Nat.le_of_not_lt hfirst)
    have hcut := Overruns.after (f := fun run => readCode >>= fun m => readSign run m) (valueBits_ne_nil run)
      (reads_readCode_value hrun) (overruns_readCode_readSign hmag (by simpa using hk))
    rw [List.take_length_add_append]
    convert hcut using 1
    simp only [tokenCut, Nat.not_lt.mpr (Nat.le_add_right _ _), if_false, Nat.add_lt_add_iff_left,
      Nat.add_sub_cancel_left]
    split <;> rfl

theorem takes_consumeToken (run : Nat) (value : Int) :
    Takes (tokenBits run value).length (run, value) (consumeToken run value) := by
  rw [tokenBits_eq, List.length_append, List.length_append]
  refine (takes_consumeValue run).bind ((takes_consumeValue value.natAbs).bind ?_)
  by_cases hv : value = 0
  · subst hv
    exact takes_pure _
  · have hsigned : (if value < 0 then -(value.natAbs : Int) else value.natAbs) = value := by
      split <;> omega
    simp only [Int.natAbs_eq_zero, if_neg hv, signBits, hsigned]
    exact (takes_takeBits 1).map fun _ => (run, value)

end Sys2Proof.Machine
end

section
/-! SUPPORT. The bit reader's instructions and the stream words: what each answers, and that a stream word does what
its decoder does on its bits. -/

namespace Sys2Proof.Machine

variable {α β : Type} {s : State}

/-! ## Instructions that read -/

theorem finish_map_of_ok {op : Op α} {a : α} {t : State} (h : op s = .ok a t) (g : α → Result) :
    finish (op >>= fun a => pure (g a)) s = .next (setResult (g a) t) :=
  finish_of_ok (op_bind_of_ok h)

theorem finish_map_of_raised {op : Op α} {c : Cause} {info : Nat} {t : State}
    (h : op s = .error .raised (takeError c info t)) (g : α → Result) :
    finish (op >>= fun a => pure (g a)) s = .next (trapped c info t) :=
  finish_of_raised (op_bind_of_error h)

theorem bitPeek_badBitCount {n : Nat} (hn : 32 < n) :
    bitPeek n s = .error .raised (takeError .badBitCount n s) := by
  rw [bitPeek, op_bind_of_ok (op_get s)]
  exact op_bind_of_error (failIf_pos (show n > Config.maxReadBits from hn) _ _ s)

theorem bitPeek_overrun {n : Nat} (hn : n ≤ 32) (h : streamEnd s < s.pos + n) :
    bitPeek n s = .error .raised (takeError .readerOverrun s.pos s) := by
  rw [bitPeek, op_bind_of_ok (op_get s),
    op_bind_of_ok (failIf_neg (show ¬n > Config.maxReadBits from Nat.not_lt.mpr hn) _ _ s)]
  exact op_bind_of_error (failIf_pos h _ _ s)

/-- What BR.PEEK shows of the `n` bits at POS; a count that is not allowed shows 0. -/
def peekedWord (s : State) (n : Nat) : U32 :=
  if n ≤ 32 then BitVec.ofNat 32 (bitsToNat (streamBits s s.pos n)) else 0

theorem peekedWord_getLsbD (s : State) (n k : Nat) :
    (peekedWord s n).getLsbD k = if k < n ∧ n ≤ 32 then streamBit s (s.pos + (n - 1 - k)) else false := by
  unfold peekedWord
  by_cases hn : n ≤ 32
  · have hlen := streamBits_length s s.pos n
    by_cases hk : k < n
    · have hbit := testBit_bitsToNat (bs := streamBits s s.pos n) (k := k) (by omega)
      rw [hlen, streamBits, List.getElem?_map, List.getElem?_range' (by omega), Option.map_some, Option.some.injEq,
        Nat.one_mul, ← streamBits] at hbit
      rw [if_pos hn, if_pos ⟨hk, hn⟩, hbit, BitVec.getLsbD_ofNat, decide_eq_true (by omega), Bool.true_and]
    · have hlt := (bitsToNat_spec (streamBits s s.pos n)).1
      rw [hlen] at hlt
      have hzero := Nat.testBit_lt_two_pow (hlt.trans_le (Nat.pow_le_pow_right (by decide) (Nat.not_lt.mp hk)))
      rw [if_pos hn, if_neg (by omega), BitVec.getLsbD_ofNat, hzero, Bool.and_false]
  · simp [hn]

theorem exec_brPeek (s : State) (n : Nat) :
    exec (.brPeek n) s = .next
      (if 32 < n then trapped .badBitCount n s
      else if streamEnd s < s.pos + n then trapped .readerOverrun s.pos s
      else setResult (.bits (peekedWord s n)) s) := by
  split
  next hn => exact finish_map_of_raised (bitPeek_badBitCount hn) _
  next hn =>
    split
    next hp => exact finish_map_of_raised (bitPeek_overrun (by omega) hp) _
    next hp =>
      rw [peekedWord, if_pos (by omega)]
      exact finish_map_of_ok (bitPeek_fits (by omega) (by omega)) _

theorem exec_brRead (s : State) (n : Nat) :
    exec (.brRead n) s = .next
      (if 32 < n then trapped .badBitCount n s
      else if streamEnd s < s.pos + n then trapped .readerOverrun s.pos s
      else setResult (.bits (peekedWord s n)) (advance n s)) := by
  split
  next hn => exact finish_map_of_raised (op_bind_of_error (bitPeek_badBitCount hn)) _
  next hn =>
    split
    next hp => exact finish_map_of_raised (bitRead_overrun (by omega) hp) _
    next hp =>
      rw [peekedWord, if_pos (by omega)]
      exact finish_map_of_ok (bitRead_fits (by omega) (by omega)) _

/-! ## RLV.DECODE and the token word -/

theorem exec_rlvDecode_of_standsAt {run : Nat} {value : Int} (h : Instr.tokenFits run value)
    (hs : StandsAt (tokenBits run value) s) :
    exec .rlvDecode s = .next (setResult (.token run value) (advance (tokenBits run value).length s)) :=
  finish_map_of_ok (reads_readToken h s hs) _

theorem exec_tok {run : Nat} {value : Int} (hs : s.pos + (tokenBits run value).length ≤ streamEnd s) :
    exec (.tok run value) s = .next (setResult (.token run value) (advance (tokenBits run value).length s)) :=
  finish_map_of_ok (takes_consumeToken run value s hs) _

/-! ## Code words -/

/-- The row of R98 for `z` zeros is the code word with its zero count and suffix. -/
theorem exec_codeInstr {z suffix : Nat} (hz : z ≤ Config.ueMaxZeros) (hs : suffix < 2 ^ z) :
    exec (codeInstr z suffix) s = codeWord z suffix s := by
  have hword : (BitVec.ofNat z suffix).toNat = suffix := by simpa using Nat.mod_eq_of_lt hs
  unfold Config.ueMaxZeros at hz
  interval_cases z
  · obtain rfl : suffix = 0 := by simpa using hs
    rfl
  all_goals exact congrArg (fun n => codeWord _ n s) hword

theorem codeWord_eq {z suffix : Nat} (hs : s.pos + (2 * z + 1) ≤ streamEnd s) :
    codeWord z suffix s = .next (setResult (.code (codeValue z suffix)) (advance (2 * z + 1) s)) :=
  finish_map_of_ok (takes_consumeCode z suffix s hs) _

theorem exec_ueMalformed (hs : s.pos + 13 ≤ streamEnd s) :
    exec .ueMalformed s = .next (trapped .malformedCode (s.pos + 13) (advance 13 s)) :=
  finishUnit_of_raised (op_bind_of_ok (takes_takeSingles 13 s hs))

/-- A row of format UE that encodes to the word of a value is a code word of that value. -/
theorem encode_eq_valueBits {i : Instr} {v : Nat} (hv : v ≤ 8190) (h : encode i = .stream .ue (valueBits v)) :
    ∃ z ≤ Config.ueMaxZeros, ∃ suffix < 2 ^ z, i = codeInstr z suffix ∧ codeValue z suffix = v := by
  rcases encode_eq_ue.mp h with ⟨z, hz, suffix, hlt, rfl, hbits⟩ | ⟨-, hbits⟩
  · obtain ⟨z', suffix', hcode, hval⟩ := decodeCode_valueBits hv []
    rw [hbits, decodeCode_eq_ok.mpr ⟨hz, hlt, rfl⟩] at hcode
    obtain ⟨rfl, rfl⟩ : z = z' ∧ suffix = suffix' := by simpa using hcode
    exact ⟨z, hz, suffix, hlt, rfl, hval⟩
  · have hone : true ∈ List.replicate (Config.ueMaxZeros + 1) false := by
      rw [← hbits]
      simp [valueBits, codeBits]
    simp at hone

/-! ## Two operations that do the same on the same bits -/

/-- Where `bits` stand at POS, with anything after them, `x` and `y` do the same, and if they answer, what stands at
POS is what stood after `bits`. -/
def SameOn (bits : List Bool) (x y : Op α) : Prop :=
  ∀ rest s, StandsAt (bits ++ rest) s → x s = y s ∧ ∀ a t, x s = .ok a t → StandsAt rest t

variable {x y : Op α} {f g : α → Op β} {pre post : List Bool}

theorem SameOn.bind (hx : SameOn pre x y) (hf : ∀ a, SameOn post (f a) (g a)) :
    SameOn (pre ++ post) (x >>= f) (y >>= g) := by
  intro rest s hs
  rw [List.append_assoc] at hs
  obtain ⟨heq, hthen⟩ := hx (post ++ rest) s hs
  rw [op_bind, op_bind, ← heq]
  cases hxs : x s with
  | ok a t => exact hf a rest t (hthen a t hxs)
  | error e t =>
    refine ⟨rfl, fun b u h => ?_⟩
    cases h

/-- Two reads of one field: what follows need only agree on the value the field has. -/
theorem SameOn.read {a : α} (hx : Reads pre a x) (hy : Reads pre a y) (hf : SameOn post (f a) (g a)) :
    SameOn (pre ++ post) (x >>= f) (y >>= g) := by
  intro rest s hs
  rw [List.append_assoc] at hs
  obtain ⟨hpre, hthen⟩ := standsAt_append.mp hs
  rw [op_bind_of_ok (hx s hpre), op_bind_of_ok (hy s hpre)]
  exact hf rest _ hthen

theorem StandsAt.of_frame {W : List Piece} {bits : List Bool} {t : State} (hf : Frame W s t) (hpos : .pos ∉ W)
    (hs : StandsAt bits s) : StandsAt bits t := by
  unfold StandsAt streamBits streamBit streamEnd
  rw [hf.pos hpos, hf.binding, hf.mem]
  exact hs

/-- An operation that writes header registers only. -/
theorem SameOn.of_within (hx : Within [.hdr] x) : SameOn [] x x := fun _ _ hs =>
  ⟨rfl, fun _ _ h => hs.of_frame (hx.ok h).frame (by simp)⟩

theorem SameOn.step (hx : Within [.hdr] x) (hf : ∀ a, SameOn post (f a) (g a)) : SameOn post (x >>= f) (x >>= g) :=
  SameOn.bind (.of_within hx) hf

/-- A field read and stored. -/
theorem SameOn.store {a : α} (hx : Reads pre a x) (hy : Reads pre a y) (hf : ∀ a, Within [.hdr] (f a)) :
    SameOn pre (x >>= f) (y >>= f) := by
  have h := SameOn.read hx hy (.of_within (hf a))
  rwa [List.append_nil] at h

theorem SameOn.forFrom {f g : Nat → Op Unit} {bits : Nat → List Bool} (hf : ∀ i, SameOn (bits i) (f i) (g i))
    (start n : Nat) : SameOn ((List.range' start n).flatMap bits) (forFrom start n f) (forFrom start n g) := by
  induction n generalizing start with
  | zero => exact .of_within (within_pure _)
  | succ n ih =>
    rw [List.range'_succ, List.flatMap_cons]
    exact (hf start).bind fun _ => ih (start + 1)

/-! ## The header word (R93, R195) -/

/-- The bits of one field of a header. -/
def fieldBits (h : HeaderWord) (f : HdrField) : List Bool := natToBits (headerFieldBits f) (headerFieldValue h f)

theorem headerFieldBits_le (f : HdrField) : headerFieldBits f ≤ 32 := by
  cases f <;> simp [headerFieldBits]

theorem headerFieldValue_lt (h : HeaderWord) (f : HdrField) : headerFieldValue h f < 2 ^ headerFieldBits f := by
  cases f <;> exact BitVec.isLt _

theorem reads_readField (h : HeaderWord) (f : HdrField) :
    Reads (fieldBits h f) (headerFieldValue h f) (readField f) :=
  reads_bitRead (headerFieldBits_le f) (headerFieldValue_lt h f)

theorem reads_wordField (h : HeaderWord) (f : HdrField) :
    Reads (fieldBits h f) (headerFieldValue h f) (wordField h f) := by
  refine Takes.reads ?_
  rw [fieldBits, natToBits_length]
  exact (takes_takeBits _).map fun _ => headerFieldValue h f

theorem flatMap_eq_flatMap_range' (l : List α) (d : α) (g : α → List β) :
    l.flatMap g = (List.range' 0 l.length).flatMap fun i => g (l.getD i d) := by
  have hl : l = (List.range' 0 l.length).map fun i => l.getD i d := by
    refine List.ext_getElem (by simp) fun i hi _ => ?_
    simp [hi]
  conv_lhs => rw [hl, List.flatMap_map]

/-- A header is its fields in the order HDR.PARSE reads them. -/
theorem headerBits_eq_fieldBits {h : HeaderWord} (hwf : h.wf) :
    headerBits h =
      fieldBits h .numChannels ++ (fieldBits h .numSubbands ++ (fieldBits h .numWavelets ++
      (fieldBits h .imageWidth ++ (fieldBits h .imageHeight ++ (fieldBits h .patternWidth ++
      (fieldBits h .patternHeight ++ (fieldBits h .formatTag ++ (fieldBits h .bitsPerComponent ++
      (fieldBits h .lowpassPrecision ++
      ((List.range' 0 Config.seqIdBytes).flatMap (fun k => fieldBits h (.sequenceId k)) ++
      (fieldBits h .sequenceNumber ++
      (List.range' 0 (headerFieldValue h .numSubbands)).flatMap fun i => fieldBits h (.quant i)))))))))))) := by
  have hids := flatMap_eq_flatMap_range' h.fields.sequenceId.toList 0 fun b => natToBits 8 b.toNat
  have hquant := flatMap_eq_flatMap_range' h.quant 0 fun q => natToBits 16 q.toNat
  rw [Vector.length_toList] at hids
  rw [show h.quant.length = headerFieldValue h .numSubbands from hwf] at hquant
  rw [headerBits, hids, hquant]
  simp only [List.append_assoc]
  simp [fieldBits, headerFieldBits, headerFieldValue, Config.seqIdBytes]

/-- HDR.PARSE and the header word take the same steps on the header's bits. -/
theorem sameOn_parseHeader {h : HeaderWord} (hwf : h.wf) :
    SameOn (headerBits h) (parseHeader (wordField h)) (parseHeader readField) := by
  have hupdate := within_updateHdr (W := [.hdr]) (by simp)
  rw [headerBits_eq_fieldBits hwf]
  unfold parseHeader
  repeat
    first
    | refine .read (reads_wordField h _) (reads_readField h _) ?_
    | refine .step (hupdate _) fun _ => ?_
    | refine .step (within_failIf _ _ _) fun _ => ?_
    | refine .step within_get fun s => .step (within_failIf _ _ _) fun _ => ?_
    | refine .bind (.forFrom (fun k => .store (reads_wordField h (.sequenceId k)) (reads_readField h _) fun _ =>
        hupdate _) _ _) fun _ => ?_
  exact .forFrom (fun k => .store (reads_wordField h (.quant k)) (reads_readField h _) fun _ =>
    within_modify fun s => (Write.quant s _ _).path (by simp)) _ _

theorem exec_hdr_of_standsAt {h : HeaderWord} (hwf : h.wf) (hs : StandsAt (headerBits h) s) :
    exec (.hdr h) s = exec .hdrParse s :=
  finishUnit_congr (sameOn_parseHeader hwf [] s (by rwa [List.append_nil])).1

/-! ## Stream words and their decoders -/

theorem exec_eq_runDecoder {f : Format} {i : Instr} {bits : List Bool} (hwf : i.WellFormed)
    (henc : encode i = .stream f bits) (hs : StandsAt bits s) : exec i s = runDecoder f s := by
  cases f with
  | hdr =>
    obtain ⟨h, rfl, rfl⟩ := encode_eq_hdr.mp henc
    exact exec_hdr_of_standsAt (of_decide_eq_true hwf) hs
  | ue =>
    rcases encode_eq_ue.mp henc with ⟨z, hz, suffix, hlt, rfl, rfl⟩ | ⟨rfl, rfl⟩
    · have hfits : s.pos + (2 * z + 1) ≤ streamEnd s := codeBits_length z suffix ▸ hs.1
      rw [exec_codeInstr hz hlt, codeWord_eq hfits, ← codeBits_length z suffix]
      exact (finish_map_of_ok (reads_readCode hz hlt s hs) .code).symm
    · rw [exec_ueMalformed hs.1]
      exact (finish_map_of_raised (malformed_readCode s hs) .code).symm
  | tok =>
    obtain ⟨run, value, rfl, rfl⟩ := encode_eq_tok.mp henc
    rw [exec_tok hs.1]
    exact (exec_rlvDecode_of_standsAt (of_decide_eq_true hwf) hs).symm

theorem streamWord_ne_nil {f : Format} {i : Instr} {bits : List Bool} (henc : encode i = .stream f bits) :
    bits ≠ [] := by
  cases f with
  | hdr =>
    obtain ⟨h, rfl, rfl⟩ := encode_eq_hdr.mp henc
    exact fun h => by simpa [headerBits, natToBits_length] using congrArg List.length h
  | ue => rcases encode_eq_ue.mp henc with ⟨z, -, suffix, -, -, rfl⟩ | ⟨-, rfl⟩ <;> simp [codeBits]
  | tok =>
    obtain ⟨run, value, -, rfl⟩ := encode_eq_tok.mp henc
    simp [tokenBits, valueBits_ne_nil]

end Sys2Proof.Machine
end

section
/-! THE STATEMENTS of `40_bitreader_rlv.md`, settled. -/

namespace Sys2Proof.Settled

open Sys2Proof.Machine

/-- Settles O32. -/
theorem atEndResult : Obligations.AtEndResult := by
  unfold Obligations.AtEndResult
  refine ⟨fun _ => rfl, fun s => ?_⟩
  have hflag : decide (s.pos = streamEnd s) = if s.pos = streamEnd s then true else false := by split <;> simp [*]
  rw [← hflag]
  rfl

/-- Settles O31: the number read, written out in bits again, is the bits that stood there. -/
theorem bitReadResult : Obligations.BitReadResult := by
  unfold Obligations.BitReadResult
  refine ⟨fun s b q hb => by rw [streamBit, hb], fun _ => rfl, fun _ => rfl, fun s n => ?_⟩
  exact ⟨peekedWord s n, peekedWord_getLsbD s n, exec_brRead s n, exec_brPeek s n⟩

/-- Settles O33. -/
theorem tokenRead : Obligations.TokenRead := by
  unfold Obligations.TokenRead
  refine ⟨fun s run value rest hrun hmag hs => ?_, fun s run value _ _ hs => exec_tok hs⟩
  exact exec_rlvDecode_of_standsAt ⟨hrun, hmag⟩ (.of_streamRest hs (streamWord_ne_nil (i := .tok run value) rfl))

/-- Settles O34: the decoder is followed read by read up to the one that fails. -/
theorem tokenTraps : Obligations.TokenTraps := by
  unfold Obligations.TokenTraps
  refine ⟨fun s rest hs => ?_, fun s run rest hrun hs => ?_, fun s run value k hrun hmag hk hs => ?_⟩
  · exact finish_map_of_raised (malformed_readToken_run s (.of_streamRest hs (by simp))) _
  · have hword : StandsAt (valueBits run ++ List.replicate 13 false) s := .of_streamRest hs (by simp)
    have hraise := finish_map_of_raised (malformed_readToken_magnitude hrun s hword) fun t => .token t.1 t.2
    rw [List.length_append, List.length_replicate, ← Nat.add_assoc] at hraise
    exact hraise
  · exact finish_map_of_raised (overruns_readToken ⟨hrun, hmag⟩ hk s hs) _

/-- Settles O35. -/
theorem codeWordResult : Obligations.CodeWordResult := by
  unfold Obligations.CodeWordResult
  refine ⟨fun s i v hv henc hs => ?_, fun s hs => exec_ueMalformed hs⟩
  obtain ⟨z, hz, suffix, hlt, rfl, rfl⟩ := encode_eq_valueBits hv henc
  rw [valueBits_codeValue hlt, codeBits_length] at hs ⊢
  rw [exec_codeInstr hz hlt]
  exact codeWord_eq hs

/-- Settles O36: what decodes is the encoding of a word, and on those bits word and decoder take the same steps. -/
theorem streamWordsAct : Obligations.StreamWordsAct := by
  unfold Obligations.StreamWordsAct
  intro f s i rest hdec
  obtain ⟨hwf, bits, henc, hs⟩ := decodeStream_eq_ok.mp hdec
  exact exec_eq_runDecoder hwf henc (.of_streamRest hs (streamWord_ne_nil henc))

end Sys2Proof.Settled
end

section
/-! SUPPORT. The expansion table: the companding law, the entries LOG.BUILD writes, and what an expansion answers. -/

namespace Sys2Proof.Machine

/-! ## The companding law (R141) -/

theorem expandLog_eq (i : Nat) : expandLog i = min 32767 (i + 768 * i ^ 3 / 16581375) := by
  rw [expandLog, pow_three', ← Nat.mul_assoc, ← Nat.mul_assoc]

theorem expandLog_le (i : Nat) : expandLog i ≤ 32767 := min_le_left _ _

theorem expandLog_mono : Monotone expandLog := by
  intro i j hij
  rw [expandLog_eq, expandLog_eq]
  gcongr

/-- The cubic term is below 1 up to 27. -/
theorem expandLog_of_le {i : Nat} (hi : i ≤ 27) : expandLog i = i := by
  have hcube : 768 * i ^ 3 < 16581375 := calc
    768 * i ^ 3 ≤ 768 * 27 ^ 3 := by gcongr
    _ < 16581375 := by norm_num
  rw [expandLog_eq, Nat.div_eq_of_lt hcube]
  omega

/-- The law reaches its ceiling at 883, and it is monotone. -/
theorem expandLog_of_ge {i : Nat} (hi : 883 ≤ i) : expandLog i = 32767 := by
  have hceil : expandLog 883 = 32767 := by norm_num [expandLog]
  exact (expandLog_le i).antisymm (hceil ▸ expandLog_mono hi)

/-- An entry is a non-negative coefficient, so its signed reading is the law's value. -/
theorem toInt_ofNat_expandLog (i : Nat) : (BitVec.ofNat 16 (expandLog i)).toInt = expandLog i := by
  have hle := expandLog_le i
  have hnat : (BitVec.ofNat 16 (expandLog i)).toNat = expandLog i := by
    rw [BitVec.toNat_ofNat]
    omega
  rw [BitVec.toInt_eq_toNat_of_lt (by omega), hnat]

/-! ## The table (R142) -/

theorem logTable_getElem? {i : Nat} (hi : i < 4096) : logTable[i]? = some (BitVec.ofNat 16 (expandLog i)) := by
  rw [logTable, Config.logTableSize, List.getElem?_map, List.getElem?_range hi, Option.map_some]

theorem toInt_logTable_getD {i : Nat} (hi : i < 4096) : (logTable.getD i 0).toInt = expandLog i := by
  rw [List.getD_eq_getElem?_getD, logTable_getElem? hi, Option.getD_some, toInt_ofNat_expandLog]

theorem exec_logBuild (s : State) : exec .logBuild s = .next (setResult .none (setLogt logTable s)) :=
  finishUnit_of_ok (op_modify _ s)

/-! ## An expansion (R143, R144) -/

/-- A legal table that is valid is the law's already, so the lazy build answers as LOG.BUILD does. -/
theorem ensureTable_of_legal {s : State} (hs : tableLegal s) : ensureTable s = .ok () (setLogt logTable s) := by
  obtain ⟨-, hvalid⟩ := hs
  rw [ensureTable_eq]
  split
  next hv => rw [setLogt, ← hvalid hv, ← hv]
  next => rfl

theorem logDecode_index {s : State} {v : Int} (hs : tableLegal s) (hv : 4095 < v.natAbs) :
    logDecode v s = .error .raised (takeError .logIndex v.natAbs (setLogt logTable s)) := by
  rw [logDecode, op_bind_of_ok (ensureTable_of_legal hs)]
  exact op_bind_of_error (failIf_pos hv _ _ _)

theorem logDecode_legal {s : State} {v : Int} (hs : tableLegal s) (hv : v.natAbs ≤ 4095) :
    logDecode v s = .ok (v.sign * expandLog v.natAbs) (setLogt logTable s) := by
  rw [logDecode, op_bind_of_ok (ensureTable_of_legal hs), op_bind_of_ok (failIf_neg (Nat.not_lt.mpr hv) _ _ _),
    op_bind_of_ok (op_get _), setLogt_logt, toInt_logTable_getD (Nat.lt_succ_of_le hv), op_pure]

theorem exec_logDecode {s : State} (hs : tableLegal s) (v : U32) :
    exec (.logDecode v) s = .next
      (if 4095 < v.toInt.natAbs then trapped .logIndex v.toInt.natAbs (setLogt logTable s)
      else setResult (.expanded (v.toInt.sign * expandLog v.toInt.natAbs)) (setLogt logTable s)) := by
  split
  next hv => exact finish_map_of_raised (logDecode_index hs hv) .expanded
  next hv => exact finish_map_of_ok (logDecode_legal hs (Nat.not_lt.mp hv)) .expanded

end Sys2Proof.Machine
end

section
/-! THE STATEMENTS of `41_logtable.md`, settled. -/

namespace Sys2Proof.Settled

open Sys2Proof.Machine

/-- Settles O37: every entry is the law's value at its index. -/
theorem logBuildResult : Obligations.LogBuildResult := by
  unfold Obligations.LogBuildResult
  refine ⟨fun s => ⟨_, exec_logBuild s, ?_, ?_, fun i hi => ?_⟩, expandLog_le, fun _ => expandLog_of_le,
    fun _ => expandLog_of_ge, fun _ _ hij => expandLog_mono hij⟩
  · rw [setResult_logt, setLogt_logt, setResult, setLogt]
  · rw [setResult_logt, setLogt_logt, length_logTable]
  · rw [setResult_logt, setLogt_logt, logTable_getElem? hi, expandLog_eq]

/-- Settles O38: in a legal state the table read is the law's, built just now or before. -/
theorem logDecodeResult : Obligations.LogDecodeResult := by
  unfold Obligations.LogDecodeResult
  intro s v hs
  rw [exec_logDecode hs, expandLog_eq, setLogt, setResult]

end Sys2Proof.Settled
end

section
/-! SUPPORT. The levels (`43_level.md` R165, `10_state.md` R34): who owns which buffer, said level by level; what a
change of one level must bring to keep that; and that every operation on levels keeps it. -/

namespace Sys2Proof.Machine

variable {W : List Piece} {s t u : State} {α β : Type} {c l : Nat}

/-! ## Operations that keep a property, the second part counting on the state the first left -/

/-- The end of an operation, answering or stopping, has `I`; `Keeps I op` is that it has wherever the start had. -/
def Lands (I : State → Prop) : EStateM.Result Stop State α → Prop
  | .ok _ t => I t
  | .error _ t => I t

theorem lands_bind {I J : State → Prop} {x : Op α} {f : α → Op β} (hIJ : ∀ s, I s → J s) (hx : Lands I (x s))
    (hf : ∀ a u, x s = .ok a u → I u → Lands J (f a u)) : Lands J ((x >>= f) s) := by
  rw [op_bind]
  cases hxs : x s with
  | ok a u =>
    rw [hxs] at hx
    exact hf a u hxs hx
  | error e u =>
    rw [hxs] at hx
    exact hIJ u hx

theorem keeps_bind_then {I : State → Prop} {x : Op α} {f : α → Op β} (hx : Keeps I x)
    (hf : ∀ s a u, I s → x s = .ok a u → I u → Lands I (f a u)) : Keeps I (x >>= f) :=
  fun s hs => lands_bind (fun _ h => h) (hx s hs) fun a u hxs => hf s a u hs hxs

/-! ## Buffer lengths -/

/-- The length of the array of a buffer id, if BUF has it. -/
def bufLen (s : State) (id : Nat) : Option Nat := (bufFind s.bufs id).map Buffer.len

theorem planeLen_eq (s : State) (p : Plane) :
    planeLen s p = if p.epoch = s.epoch then (p.buf.bind (bufLen s)).getD 0 else 0 := by
  unfold planeLen bufLen
  cases p.buf <;> rfl

theorem bufLen_put_same (m : List (Nat × Buffer)) (id : Nat) (b : Buffer) (s : State) :
    bufLen (setBufs (bufPut m id b) s) id = some b.len := by simp [bufLen]

theorem bufLen_put_ne {id id' : Nat} (h : id' ≠ id) (b : Buffer) (s : State) :
    bufLen (setBufs (bufPut s.bufs id b) s) id' = bufLen s id' := by
  simp [bufLen, bufFind_bufPut_ne _ _ _ _ h]

/-- Writing an element changes no length. -/
theorem bufLen_put_element {id : Nat} {b : Buffer} (hb : bufFind s.bufs id = some b) (cells : Cells 16) (id' : Nat) :
    bufLen (setBufs (bufPut s.bufs id ⟨b.len, cells⟩) s) id' = bufLen s id' := by
  by_cases h : id' = id
  · subst h
    rw [bufLen_put_same, bufLen, hb, Option.map_some]
  · exact bufLen_put_ne h _ s

theorem bufFind_foldl_bufDrop {ids : List Nat} {id : Nat} (h : id ∉ ids) (m : List (Nat × Buffer)) :
    bufFind (ids.foldl bufDrop m) id = bufFind m id := by
  induction ids generalizing m with
  | nil => rfl
  | cons i ids ih =>
    obtain ⟨hi, hids⟩ := not_or.mp (mt List.mem_cons.mpr h)
    rw [List.foldl_cons, ih hids, bufFind_bufDrop_ne _ _ _ hi]

/-- Putting an array adds at most its own id to BUF. -/
theorem bufPut_ids_lt {m : List (Nat × Buffer)} {id n n' : Nat} {b : Buffer} (h : ∀ e ∈ m, e.1 < n) (hid : id < n')
    (hn : n ≤ n') : ∀ e ∈ bufPut m id b, e.1 < n' := by
  intro e he
  rcases bufPut_mem _ _ _ e he with he | rfl
  · exact (h e he).trans_le hn
  · exact hid

/-! ## One level -/

theorem mem_levelBufs {lev : Level} {id : Nat} :
    id ∈ levelBufs lev ↔ ∃ b < lev.numBands.toNat, (bandAt lev b).plane.buf = some id := by
  simp [levelBufs]

@[simp] theorem levelBufs_reset : levelBufs Level.reset = [] := rfl

theorem levelLegal_reset (s : State) : levelLegal s Level.reset := ⟨fun _ => rfl, nofun⟩

/-- What `levelLegal` asks of an initialized level. -/
structure LevelInUse (s : State) (lev : Level) : Prop where
  numBands_pos : 1 ≤ lev.numBands.toNat
  numBands_le : lev.numBands.toNat ≤ 4
  valid : lev.valid.toNat < 2 ^ lev.numBands.toNat
  width : lev.width ≠ 0
  height : lev.height ≠ 0
  stride : lev.stride = lev.width
  declared : ∀ b < lev.numBands.toNat, bandOwned s lev (bandAt lev b).plane
  undeclared : ∀ b < 4, lev.numBands.toNat ≤ b → (bandAt lev b).plane = Plane.null

theorem levelLegal_iff_inUse {lev : Level} (hi : lev.init = true) : levelLegal s lev ↔ LevelInUse s lev := by
  constructor
  · rintro ⟨-, h⟩
    obtain ⟨h1, h4, hv, hw, hh, hst, hbands⟩ := h hi
    exact ⟨h1, h4, hv, hw, hh, hst, fun b hb => (hbands b (hb.trans_le h4)).1 hb, fun b hb => (hbands b hb).2⟩
  · rintro ⟨h1, h4, hv, hw, hh, hst, hdecl, hnull⟩
    exact ⟨fun hn => absurd (hi.symm.trans hn) (by decide),
      fun _ => ⟨h1, h4, hv, hw, hh, hst, fun b hb => ⟨hdecl b, hnull b hb⟩⟩⟩

/-- Whether a level is legal depends on the number of RESETs and on the lengths of its own buffers only. -/
theorem levelLegal_congr {lev : Level} (he : t.epoch = s.epoch)
    (hlen : ∀ id ∈ levelBufs lev, bufLen t id = bufLen s id) (h : levelLegal s lev) : levelLegal t lev := by
  cases hi : lev.init with
  | false => exact ⟨h.1, fun hn => absurd (hi.symm.trans hn) (by decide)⟩
  | true =>
    have hs := (levelLegal_iff_inUse hi).mp h
    refine (levelLegal_iff_inUse hi).mpr { hs with declared := fun b hb => ?_ }
    obtain ⟨hsome, heq, hl⟩ := hs.declared b hb
    refine ⟨hsome, by rw [he]; exact heq, ?_⟩
    obtain ⟨id, hid⟩ := Option.isSome_iff_exists.mp hsome
    have hid' := hlen id (mem_levelBufs.mpr ⟨b, hb, hid⟩)
    rw [← hl, planeLen_eq, planeLen_eq, he, hid, Option.bind_some, Option.bind_some, hid']

theorem bandAt_setBand (b : Nat) (x : Band) (lev : Level) (b' : Nat) :
    bandAt (setBand b x lev) b' = if b' = b ∧ b < 4 then x else bandAt lev b' := by
  unfold bandAt setBand
  by_cases hb : b < 4
  · by_cases h : b' = b
    · subst h
      simp [hb]
    · simp [h, Ne.symm h]
  · by_cases h : b' = b
    · subst h
      simp [hb]
    · simp [h, Ne.symm h]

/-- Giving a band a new quantization value leaves its plane, and every other band. -/
theorem bandAt_setQuant_plane (b : Nat) (q : U16) (lev : Level) (b' : Nat) :
    (bandAt (setBand b ⟨(bandAt lev b).plane, q⟩ lev) b').plane = (bandAt lev b').plane := by
  rw [bandAt_setBand]
  split
  next h => rw [h.1]
  next => rfl

theorem levelLegal_setValidBit {lev : Level} {b : Nat} (hi : lev.init = true) (hb : b < lev.numBands.toNat)
    (h : levelLegal s lev) : levelLegal s (setValidBit b lev) := by
  have hs := (levelLegal_iff_inUse hi).mp h
  have hbit : (BitVec.ofNat 4 (2 ^ b)).toNat < 2 ^ lev.numBands.toNat := by
    rw [BitVec.toNat_ofNat]
    exact (Nat.mod_le _ _).trans_lt (Nat.pow_lt_pow_right (by decide) hb)
  refine (levelLegal_iff_inUse (lev := setValidBit b lev) hi).mpr { hs with valid := ?_ }
  rw [setValidBit, BitVec.toNat_or]
  exact Nat.or_lt_two_pow hs.valid hbit

theorem levelLegal_setQuant {lev : Level} (hi : lev.init = true) (b : Nat) (q : U16) (h : levelLegal s lev) :
    levelLegal s (setBand b ⟨(bandAt lev b).plane, q⟩ lev) := by
  have hs := (levelLegal_iff_inUse hi).mp h
  refine (levelLegal_iff_inUse (lev := setBand b ⟨(bandAt lev b).plane, q⟩ lev) hi).mpr
    { hs with declared := fun b' hb' => ?_, undeclared := fun b' hb' hn => ?_ }
  · rw [bandAt_setQuant_plane]
    exact hs.declared b' hb'
  · rw [bandAt_setQuant_plane]
    exact hs.undeclared b' hb' hn

theorem levelBufs_setQuant (lev : Level) (b : Nat) (q : U16) :
    levelBufs (setBand b ⟨(bandAt lev b).plane, q⟩ lev) = levelBufs lev := by
  simp only [levelBufs, bandAt_setQuant_plane]
  rfl

/-- Outside the capacity a level reads as after reset. -/
theorem levelAt_outside (h : ¬(c < 4 ∧ l < 3)) : levelAt s c l = Level.reset := by
  by_cases hc : c < 4
  · simp [levelAt, Vector.getElem?_eq_none (show 3 ≤ l by omega)]
  · simp only [levelAt, channelAt, Vector.getElem?_eq_none (show 4 ≤ c by omega), Option.getD_none, Channel.reset,
      Vector.getElem?_replicate]
    split <;> rfl

/-! ## All levels -/

/-- `levelsLegal`, level by level: each level is legal and has no buffer twice, two levels share no buffer, and every
id in use is below NEXT_BUF. -/
structure LevelOwners (s : State) : Prop where
  legal : ∀ c < 4, ∀ l < 3, levelLegal s (levelAt s c l)
  nodup : ∀ c < 4, ∀ l < 3, (levelBufs (levelAt s c l)).Nodup
  disjoint : ∀ c < 4, ∀ l < 3, ∀ c' < 4, ∀ l' < 3, c' ≠ c ∨ l' ≠ l →
    List.Disjoint (levelBufs (levelAt s c l)) (levelBufs (levelAt s c' l'))
  below : ∀ c < 4, ∀ l < 3, ∀ id ∈ levelBufs (levelAt s c l), id < s.nextBuf
  bufs : ∀ e ∈ s.bufs, e.1 < s.nextBuf

theorem mem_levelIds {id : Nat} : id ∈ levelIds s ↔ ∃ c < 4, ∃ l < 3, id ∈ levelBufs (levelAt s c l) := by
  simp only [levelIds, List.mem_flatMap, List.mem_range]

/-- The lists that `f` gives along a range are pairwise disjoint exactly where any two different places have disjoint
lists. -/
theorem pairwise_disjoint_range {n : Nat} {f : Nat → List Nat} :
    (List.range n).Pairwise (Function.onFun List.Disjoint f) ↔
      ∀ i < n, ∀ j < n, j ≠ i → List.Disjoint (f i) (f j) := by
  refine ⟨fun h i hi j hj hne => ?_, fun h => ?_⟩
  · have hlt : ∀ i j, i < j → j < n → List.Disjoint (f i) (f j) := fun i j hij hj => by
      have := List.pairwise_iff_getElem.mp h i j (by simpa using hij.trans hj) (by simpa using hj) hij
      rwa [Function.onFun, List.getElem_range, List.getElem_range] at this
    rcases Nat.lt_or_gt_of_ne hne with hji | hij
    · exact (hlt j i hji hi).symm
    · exact hlt i j hij hj
  · exact List.nodup_range.pairwise_of_forall_ne fun i hi j hj hne =>
      h i (List.mem_range.mp hi) j (List.mem_range.mp hj) hne.symm

theorem nodup_levelIds :
    (levelIds s).Nodup ↔ (∀ c < 4, ∀ l < 3, (levelBufs (levelAt s c l)).Nodup) ∧
      ∀ c < 4, ∀ l < 3, ∀ c' < 4, ∀ l' < 3, c' ≠ c ∨ l' ≠ l →
        List.Disjoint (levelBufs (levelAt s c l)) (levelBufs (levelAt s c' l')) := by
  simp only [levelIds, List.nodup_flatMap, pairwise_disjoint_range, List.mem_range]
  refine ⟨fun ⟨hin, hout⟩ => ⟨fun c hc => (hin c hc).1, fun c hc l hl c' hc' l' hl' hne => ?_⟩,
    fun ⟨hnodup, hdisjoint⟩ => ⟨fun c hc => ⟨hnodup c hc, fun l hl l' hl' hne => ?_⟩, fun c hc c' hc' hne => ?_⟩⟩
  · by_cases h : c' = c
    · subst h
      exact (hin c' hc).2 l hl l' hl' (by simpa using hne)
    · exact fun id hid hid' => hout c hc c' hc' h (List.mem_flatMap.mpr ⟨l, List.mem_range.mpr hl, hid⟩)
        (List.mem_flatMap.mpr ⟨l', List.mem_range.mpr hl', hid'⟩)
  · exact hdisjoint c hc l hl c hc l' hl' (.inr hne)
  · intro id hid hid'
    obtain ⟨l, hl, hid⟩ := List.mem_flatMap.mp hid
    obtain ⟨l', hl', hid'⟩ := List.mem_flatMap.mp hid'
    exact hdisjoint c hc l (List.mem_range.mp hl) c' hc' l' (List.mem_range.mp hl') (.inl hne) hid hid'

theorem levelsLegal_iff : levelsLegal s ↔ LevelOwners s := by
  constructor
  · rintro ⟨hlegal, hids, hbelow, hbufs⟩
    obtain ⟨hnodup, hdisjoint⟩ := nodup_levelIds.mp hids
    exact ⟨hlegal, hnodup, hdisjoint,
      fun c hc l hl id hid => hbelow id (mem_levelIds.mpr ⟨c, hc, l, hl, hid⟩), hbufs⟩
  · rintro ⟨hlegal, hnodup, hdisjoint, hbelow, hbufs⟩
    refine ⟨hlegal, nodup_levelIds.mpr ⟨hnodup, hdisjoint⟩, fun id hid => ?_, hbufs⟩
    obtain ⟨c, hc, l, hl, hmem⟩ := mem_levelIds.mp hid
    exact hbelow c hc l hl id hmem

/-- A change of one level, and of the lengths of no buffer but its own and new ones, keeps one owner per buffer where
the level is legal again and has only buffers it had or new ones. -/
theorem LevelOwners.change (hs : LevelOwners s) (c l : Nat)
    (hother : ∀ c' l', c' ≠ c ∨ l' ≠ l → levelAt t c' l' = levelAt s c' l')
    (hepoch : t.epoch = s.epoch) (hnext : s.nextBuf ≤ t.nextBuf)
    (hlen : ∀ id < s.nextBuf, id ∉ levelBufs (levelAt s c l) → bufLen t id = bufLen s id)
    (hbufs : ∀ e ∈ t.bufs, e.1 < t.nextBuf)
    (hlevel : c < 4 → l < 3 → levelLegal t (levelAt t c l) ∧ (levelBufs (levelAt t c l)).Nodup ∧
      ∀ id ∈ levelBufs (levelAt t c l), id ∈ levelBufs (levelAt s c l) ∨ s.nextBuf ≤ id ∧ id < t.nextBuf) :
    LevelOwners t := by
  have hapart : ∀ c' < 4, ∀ l' < 3, c' ≠ c ∨ l' ≠ l → c < 4 → l < 3 →
      List.Disjoint (levelBufs (levelAt t c l)) (levelBufs (levelAt s c' l')) := by
    intro c' hc' l' hl' hne hc hl id hid hid'
    rcases (hlevel hc hl).2.2 id hid with hold | ⟨hnew, -⟩
    · exact hs.disjoint c hc l hl c' hc' l' hl' hne hold hid'
    · exact absurd (hs.below c' hc' l' hl' id hid') (by omega)
  have hcases : ∀ c' l', (c' = c ∧ l' = l) ∨ (c' ≠ c ∨ l' ≠ l) := by omega
  refine ⟨fun c' hc' l' hl' => ?_, fun c' hc' l' hl' => ?_, fun c₁ hc₁ l₁ hl₁ c₂ hc₂ l₂ hl₂ hne => ?_,
    fun c' hc' l' hl' id hid => ?_, hbufs⟩
  · rcases hcases c' l' with ⟨rfl, rfl⟩ | hne
    · exact (hlevel hc' hl').1
    · rw [hother c' l' hne]
      refine levelLegal_congr hepoch (fun id hid => hlen id (hs.below c' hc' l' hl' id hid) fun hid' => ?_)
        (hs.legal c' hc' l' hl')
      by_cases hin : c < 4 ∧ l < 3
      · exact hs.disjoint c hin.1 l hin.2 c' hc' l' hl' hne hid' hid
      · rw [levelAt_outside hin] at hid'
        exact absurd hid' List.not_mem_nil
  · rcases hcases c' l' with ⟨rfl, rfl⟩ | hne
    · exact (hlevel hc' hl').2.1
    · rw [hother c' l' hne]
      exact hs.nodup c' hc' l' hl'
  · rcases hcases c₁ l₁ with ⟨rfl, rfl⟩ | h₁
    · rw [hother c₂ l₂ hne]
      exact hapart c₂ hc₂ l₂ hl₂ hne hc₁ hl₁
    · rw [hother c₁ l₁ h₁]
      rcases hcases c₂ l₂ with ⟨rfl, rfl⟩ | h₂
      · exact (hapart c₁ hc₁ l₁ hl₁ h₁ hc₂ hl₂).symm
      · rw [hother c₂ l₂ h₂]
        exact hs.disjoint c₁ hc₁ l₁ hl₁ c₂ hc₂ l₂ hl₂ hne
  · rcases hcases c' l' with ⟨rfl, rfl⟩ | hne
    · rcases (hlevel hc' hl').2.2 id hid with hold | ⟨-, hnew⟩
      · exact (hs.below c' hc' l' hl' id hold).trans_le hnext
      · exact hnew
    · rw [hother c' l' hne] at hid
      exact (hs.below c' hc' l' hl' id hid).trans_le hnext

theorem LevelOwners.of_kept (hs : LevelOwners s) (hlevels : ∀ c l, levelAt t c l = levelAt s c l)
    (hepoch : t.epoch = s.epoch) (hnext : s.nextBuf ≤ t.nextBuf) (hlen : ∀ id < s.nextBuf, bufLen t id = bufLen s id)
    (hbufs : ∀ e ∈ t.bufs, e.1 < t.nextBuf) : LevelOwners t :=
  hs.change 4 0 (fun c l _ => hlevels c l) hepoch hnext (fun id hid _ => hlen id hid) hbufs
    fun h => absurd h (by decide)

/-- A level rewritten in place: it is legal and has the buffers it had. -/
theorem LevelOwners.setLevel (hs : LevelOwners s) {lev : Level} (hlegal : c < 4 → l < 3 → levelLegal s lev)
    (hbufs : levelBufs lev = levelBufs (levelAt s c l)) : LevelOwners (setLevel c l lev s) := by
  refine hs.change c l (fun c' l' hne => levelAt_setLevel_ne hne lev s) rfl le_rfl (fun _ _ _ => rfl) hs.bufs
    fun hc hl => ?_
  rw [levelAt_setLevel_same hc hl, hbufs]
  exact ⟨hlegal hc hl, hs.nodup c hc l hl, fun _ => .inl⟩

/-- Of the single writes, those that write no level and drop no buffer. -/
theorem LevelOwners.write {k : Piece} (hs : LevelOwners s) (hw : Write k s t) (hl : k ≠ .level) (hd : k ≠ .drop) :
    LevelOwners t := by
  cases hw with
  | level => exact absurd rfl hl
  | drop => exact absurd rfl hd
  | element _ id e b v hb he =>
    refine hs.of_kept (fun _ _ => rfl) rfl le_rfl (fun id' _ => bufLen_put_element hb _ id') ?_
    exact bufPut_ids_lt hs.bufs (hs.bufs _ (bufFind_mem hb)) le_rfl
  | create _ len =>
    refine hs.of_kept (fun _ _ => rfl) rfl (Nat.le_succ _) (fun id hid => bufLen_put_ne hid.ne _ s) ?_
    exact bufPut_ids_lt hs.bufs (Nat.lt_succ_self _) (Nat.le_succ _)
  | prescale _ c l p =>
    exact hs.of_kept (fun c' l' => levelAt_setPrescale c l c' l' p s) rfl le_rfl (fun _ _ => rfl) hs.bufs
  | logt =>
    -- the unifier is not to evaluate the 4096 entries
    generalize logTable = table
    exact hs.of_kept (fun _ _ => rfl) rfl le_rfl (fun _ _ => rfl) hs.bufs
  | _ => exact hs.of_kept (fun _ _ => rfl) rfl le_rfl (fun _ _ => rfl) hs.bufs

theorem LevelOwners.takeError (hs : LevelOwners s) (c : Cause) (info : Nat) : LevelOwners (takeError c info s) := by
  obtain ⟨e, x, he⟩ := takeError_rest c info s
  rw [he]
  exact hs.of_kept (fun _ _ => rfl) rfl le_rfl (fun _ _ => rfl) hs.bufs

theorem LevelOwners.path (hs : LevelOwners s) (h : Path W s t) (hl : .level ∉ W) (hd : .drop ∉ W) : LevelOwners t :=
  h.keeps (fun _ hk _ _ hw ha => ha.write hw (fun he => hl (he ▸ hk)) fun he => hd (he ▸ hk)) hs

theorem LevelOwners.setResult (hs : LevelOwners s) (r : Result) : LevelOwners (setResult r s) :=
  hs.of_kept (fun _ _ => rfl) rfl le_rfl (fun _ _ => rfl) hs.bufs

/-- An operation that writes no level and drops no buffer. -/
theorem Within.keeps_owners {op : Op α} (h : Within W op) (hl : .level ∉ W) (hd : .drop ∉ W) :
    Keeps LevelOwners op := by
  intro s hs
  cases ho : op s with
  | ok a t => exact hs.path (h.ok ho) hl hd
  | error e t =>
    obtain ⟨u, c, info, hp, rfl⟩ := h.error ho
    exact (hs.path hp hl hd).takeError c info

theorem LevelOwners.reaches (hs : LevelOwners s) (h : Reaches W s t) (hl : .level ∉ W) (hd : .drop ∉ W) :
    LevelOwners t := by
  obtain ⟨u, hp, ⟨r, rfl⟩ | ⟨c, info, rfl⟩⟩ := h
  · exact (hs.path hp hl hd).setResult r
  · exact ((hs.path hp hl hd).takeError c info).setResult .none

/-- An operation that writes nothing but its error. -/
theorem Within.keeps_owners_nil {op : Op α} (h : Within [] op) : Keeps LevelOwners op :=
  h.keeps_owners List.not_mem_nil List.not_mem_nil

/-! ## LV.SETVALID and LV.CLEAR -/

theorem keeps_levelSetValid (lv : LevelRef) (b : Nat) : Keeps LevelOwners (levelSetValid lv b) := by
  refine keeps_bind_then (within_fetchBandLevel lv b).keeps_owners_nil fun s lev u _ hfetch hu => ?_
  obtain ⟨hc, hl, rfl, hi, hb, rfl⟩ := fetchBandLevel_ok hfetch
  exact hu.setLevel (fun hc hl => levelLegal_setValidBit hi hb (hu.legal _ hc _ hl)) rfl

/-- What LV.CLEAR leaves: the level as after reset, its buffers dropped. -/
theorem LevelOwners.cleared (hs : LevelOwners s) (c l : Nat) :
    LevelOwners (Machine.setLevel c l Level.reset
      (setBufs ((levelBufs (levelAt s c l)).foldl bufDrop s.bufs) s)) := by
  refine hs.change c l (fun c' l' hne => levelAt_setLevel_ne hne _ _) rfl le_rfl (fun id _ hid => ?_)
    (fun e he => hs.bufs e ((bufDrop_foldl_sublist _ _).subset he)) fun hc hl => ?_
  · exact congrArg (Option.map Buffer.len) (bufFind_foldl_bufDrop hid s.bufs)
  · rw [levelAt_setLevel_same hc hl]
    exact ⟨levelLegal_reset _, List.nodup_nil, nofun⟩

theorem keeps_levelClear (lv : LevelRef) : Keeps LevelOwners (levelClear lv) := by
  refine keeps_bind_then (within_fetchLevel lv).keeps_owners_nil fun s lev u _ hfetch hu => ?_
  obtain ⟨hc, hl, rfl, rfl⟩ := fetchLevel_ok hfetch
  rw [dropBands]
  cases hi : (levelAt u lv.c.toNat lv.l.toNat).init with
  | true => exact hu.cleared _ _
  | false =>
    have hreset := (hu.legal _ (Nat.lt_succ_of_le hc) _ (Nat.lt_succ_of_le hl)).1 hi
    exact hu.setLevel (fun _ _ => levelLegal_reset u) (by rw [hreset])

/-! ## LV.INIT -/

/-- The plane LV.INIT makes for band `b` of a level (`43_level.md` R166), started in state `s`. -/
def freshPlane (s : State) (w h : U16) (b : Nat) : Plane := ⟨some (s.nextBuf + b), 0, w, h, w, true, s.epoch⟩

/-- The state of LV.INIT, started in `s` on an uninitialized level, after `k` bands are made. -/
structure InitTurns (s : State) (c l : Nat) (w h : U16) (n k : Nat) (u : State) : Prop where
  other : ∀ c' l', c' ≠ c ∨ l' ≠ l → levelAt u c' l' = levelAt s c' l'
  fields : ∃ band, levelAt u c l =
    { Level.reset with width := w, height := h, stride := w, numBands := BitVec.ofNat 3 n, band := band }
  made : ∀ b < k, bandAt (levelAt u c l) b = ⟨freshPlane s w h b, 0⟩
  unmade : ∀ b, k ≤ b → bandAt (levelAt u c l) b = Band.reset
  nextBuf : u.nextBuf = s.nextBuf + k
  epoch : u.epoch = s.epoch
  madeLen : ∀ b < k, bufLen u (s.nextBuf + b) = some (w.toNat * h.toNat)
  oldLen : ∀ id < s.nextBuf, bufLen u id = bufLen s id
  bufs : ∀ e ∈ u.bufs, e.1 < u.nextBuf

theorem bandAt_reset (b : Nat) : bandAt Level.reset b = Band.reset := by
  simp only [bandAt, Level.reset, Vector.getElem?_replicate]
  split <;> rfl

section
variable {w h : U16} {n k : Nat}

theorem InitTurns.start (hs : LevelOwners s) (hc : c < 4) (hl : l < 3) (hr : levelAt s c l = Level.reset) :
    InitTurns s c l w h n 0 (Machine.setLevel c l
      { levelAt s c l with width := w, height := h, stride := w, numBands := BitVec.ofNat 3 n } s) := by
  refine ⟨fun c' l' hne => levelAt_setLevel_ne hne _ _, ?_, nofun, fun b _ => ?_, rfl, rfl, nofun, fun _ _ => rfl,
    hs.bufs⟩
  · rw [levelAt_setLevel_same hc hl, hr]
    exact ⟨_, rfl⟩
  · rw [levelAt_setLevel_same hc hl, hr]
    exact bandAt_reset b

/-- One turn of LV.INIT's loop: PL.CREATE answers, and the level has one band more. -/
theorem InitTurns.turn (hu : InitTurns s c l w h n k u) (hc : c < 4) (hl : l < 3) (hk : k < 4) (hw : w ≠ 0)
    (hh : h ≠ 0) :
    ∃ t, (do
        let p ← planeCreate w h
        modify fun s => Machine.setLevel c l (setBand k ⟨p, 0⟩ (levelAt s c l)) s : Op Unit) u = .ok () t ∧
      InitTurns s c l w h n (k + 1) t := by
  have hp : (⟨some u.nextBuf, 0, w, h, w, true, u.epoch⟩ : Plane) = freshPlane s w h k := by
    rw [freshPlane, hu.nextBuf, hu.epoch]
  have hcreate := planeCreate_legal hw hh u
  rw [hp] at hcreate
  refine ⟨_, op_bind_of_ok hcreate, ?_⟩
  set v := setNextBuf (u.nextBuf + 1) (setBufs (bufPut u.bufs u.nextBuf ⟨w.toNat * h.toNat, []⟩) u) with hv
  have hnew : bufLen v (s.nextBuf + k) = some (w.toNat * h.toNat) := by
    rw [← hu.nextBuf]
    exact bufLen_put_same _ _ _ u
  have hold : ∀ id < s.nextBuf + k, bufLen v id = bufLen u id := fun id hid =>
    bufLen_put_ne (by rw [hu.nextBuf]; exact hid.ne) _ u
  have hlevel := levelAt_setLevel_same hc hl (setBand k ⟨freshPlane s w h k, 0⟩ (levelAt u c l)) v
  refine ⟨fun c' l' hne => (levelAt_setLevel_ne hne _ v).trans (hu.other c' l' hne), ?_, fun b hb => ?_,
    fun b hb => ?_, ?_, hu.epoch, fun b hb => ?_, fun id hid => (hold id (by omega)).trans (hu.oldLen id hid),
    bufPut_ids_lt hu.bufs (Nat.lt_succ_self _) (Nat.le_succ _)⟩
  · obtain ⟨band, hband⟩ := hu.fields
    exact ⟨_, hlevel.trans (by rw [hband, setBand])⟩
  · refine (congrArg (bandAt · b) hlevel).trans ?_
    rw [bandAt_setBand]
    by_cases hbk : b = k
    · rw [if_pos ⟨hbk, hk⟩, hbk]
    · rw [if_neg (by omega)]
      exact hu.made b (by omega)
  · refine (congrArg (bandAt · b) hlevel).trans ?_
    rw [bandAt_setBand, if_neg (by omega)]
    exact hu.unmade b (by omega)
  · exact congrArg (· + 1) hu.nextBuf
  · by_cases hbk : b = k
    · rw [hbk]
      exact hnew
    · exact (hold _ (by omega)).trans (hu.madeLen b (by omega))

/-- All bands made and the level marked: it is legal, and all its buffers are new. -/
theorem InitTurns.owners (hu : InitTurns s c l w h n n u) (hs : LevelOwners s) (hn : 1 ≤ n ∧ n ≤ 4) (hw : w ≠ 0)
    (hh : h ≠ 0) :
    LevelOwners (Machine.setLevel c l { levelAt u c l with valid := 0, init := true } u) := by
  set lev : Level := { levelAt u c l with valid := 0, init := true } with hlev
  obtain ⟨band, hband⟩ := hu.fields
  have hnum : lev.numBands.toNat = n := by
    rw [hlev, hband]
    exact (BitVec.toNat_ofNat ..).trans (Nat.mod_eq_of_lt (by omega))
  have hwidth : lev.width = w := by rw [hlev, hband]
  have hheight : lev.height = h := by rw [hlev, hband]
  have hplane : ∀ b < n, (bandAt lev b).plane = freshPlane s w h b := fun b hb => congrArg Band.plane (hu.made b hb)
  have hbufs : levelBufs lev = (List.range n).map (s.nextBuf + ·) := by
    rw [levelBufs, hnum, ← List.filterMap_eq_map]
    refine List.filterMap_congr fun b hb => ?_
    rw [hplane b (List.mem_range.mp hb)]
    rfl
  have hlegal : LevelInUse (Machine.setLevel c l lev u) lev := by
    refine ⟨hnum ▸ hn.1, hnum ▸ hn.2, Nat.two_pow_pos _, hwidth ▸ hw, hheight ▸ hh, ?_, fun b hb => ?_,
      fun b _ hb => ?_⟩
    · rw [hlev, hband]
    · have hbn : b < n := hnum ▸ hb
      rw [hplane b hbn]
      refine ⟨rfl, ?_, ?_⟩
      · rw [hwidth, hheight, setLevel_epoch, hu.epoch]
        rfl
      · have hlen : bufLen (Machine.setLevel c l lev u) (s.nextBuf + b) = _ := hu.madeLen b hbn
        rw [planeLen_eq, setLevel_epoch, hu.epoch, freshPlane, if_pos rfl, Option.bind_some, hlen, hwidth, hheight,
          Option.getD_some]
    · exact congrArg Band.plane (hu.unmade b (hnum ▸ hb))
  refine hs.change c l (fun c' l' hne => (levelAt_setLevel_ne hne _ u).trans (hu.other c' l' hne)) hu.epoch
    (hu.nextBuf.symm ▸ Nat.le_add_right s.nextBuf n) (fun id hid _ => hu.oldLen id hid) hu.bufs fun hc hl => ?_
  rw [levelAt_setLevel_same hc hl, hbufs]
  refine ⟨(levelLegal_iff_inUse rfl).mpr hlegal, List.nodup_range.map fun a b hab => Nat.add_left_cancel hab,
    fun id hid => .inr ?_⟩
  obtain ⟨b, hb, rfl⟩ := List.mem_map.mp hid
  have := List.mem_range.mp hb
  rw [setLevel_nextBuf, hu.nextBuf]
  omega

end

/-- After a check: where it raises, the owners stay as they were; else the operation goes on from the same state. -/
theorem LevelOwners.check (hs : LevelOwners s) {p : Prop} [Decidable p] {c : Cause} {info : Nat} {f : Unit → Op α}
    (hf : ¬p → Lands LevelOwners (f () s)) : Lands LevelOwners ((failIf p c info >>= f) s) := by
  by_cases hp : p
  · rw [op_bind_of_error (failIf_pos hp c info s)]
    exact hs.takeError c info
  · rw [op_bind_of_ok (failIf_neg hp c info s)]
    exact hf hp

theorem keeps_levelInit (lv : LevelRef) (w h : U16) (n : Nat) : Keeps LevelOwners (levelInit lv w h n) := by
  refine keeps_bind_then (within_fetchLevel lv).keeps_owners_nil fun s lev u _ hfetch hu => ?_
  obtain ⟨hc, hl, rfl, rfl⟩ := fetchLevel_ok hfetch
  refine hu.check fun hinit => hu.check fun hn => hu.check fun hwh => ?_
  obtain ⟨hw, hh⟩ := not_or.mp hwh
  have hc : lv.c.toNat < 4 := Nat.lt_succ_of_le hc
  have hl : lv.l.toNat < 3 := Nat.lt_succ_of_le hl
  have hreset := (hu.legal _ hc _ hl).1 (by simpa using hinit)
  obtain ⟨t, hloop, hturns⟩ := forFrom_ok (start := 0) (n := n)
    (fun k => InitTurns u lv.c.toNat lv.l.toNat w h n k)
    (fun k v hk hv => by
      rw [Nat.zero_add]
      exact hv.turn hc hl (by omega) hw hh) (InitTurns.start hu hc hl hreset)
  rw [storeLevel, op_bind_of_ok (op_modify _ _), op_bind_of_ok hloop]
  exact hturns.owners hu (by omega) hw hh

/-- LV.INIT that answers leaves the level initialized. -/
theorem levelInit_ok_init {lv : LevelRef} {w h : U16} {n : Nat} (ho : levelInit lv w h n s = .ok () t) :
    (levelAt t lv.c.toNat lv.l.toNat).init = true := by
  obtain ⟨_, _, hfetch, ho⟩ := op_bind_ok ho
  obtain ⟨hc, hl, -, -⟩ := fetchLevel_ok hfetch
  obtain ⟨_, _, -, ho⟩ := op_bind_ok ho
  obtain ⟨_, _, -, ho⟩ := op_bind_ok ho
  obtain ⟨_, _, -, ho⟩ := op_bind_ok ho
  obtain ⟨_, _, -, ho⟩ := op_bind_ok ho
  obtain ⟨_, u, -, ho⟩ := op_bind_ok ho
  cases ho
  rw [levelAt_setLevel_same (Nat.lt_succ_of_le hc) (Nat.lt_succ_of_le hl)]

/-! ## BAND.FILL -/

/-- What a token placed by BAND.FILL writes: of `fillPieces` no level, which is what the owners need. -/
def tokenPieces : List Piece := [.pos, .seq, .logt, .element]

theorem within_placeToken_noLevel (p : Plane) (n idx : Nat) : Within tokenPieces (placeToken p n idx) :=
  have he : Piece.element ∈ tokenPieces := by simp [tokenPieces]
  within_bind (within_readToken (by simp [tokenPieces])) fun t =>
    within_bind (within_failIf (t.1 + 1 > n - idx) _ _) fun _ =>
      within_bind (within_forFrom (fun _ => within_planeWrite he _ _ _ _) _ _) fun _ =>
        within_bind (within_logDecode (by simp [tokenPieces]) t.2) fun _ =>
          within_bind (within_planeWrite he _ _ _ _) fun _ =>
            within_bind (within_modify fun s => (Write.seq s _).path (by simp [tokenPieces])) fun _ => within_pure _

theorem within_fillFrom_noLevel (p : Plane) (n rounds idx : Nat) : Within tokenPieces (fillFrom p n rounds idx) := by
  induction rounds generalizing idx with
  | zero => exact within_pure _
  | succ rounds ih =>
    unfold fillFrom
    split
    · exact within_bind (within_placeToken_noLevel p n idx) ih
    · exact within_pure _

theorem keeps_fillBand (lv : LevelRef) (b : Nat) : Keeps LevelOwners (fillBand lv b) :=
  keeps_bind (within_levelBandPlane lv b).keeps_owners_nil fun _ =>
    keeps_bind ((within_fillFrom_noLevel _ _ _ _).keeps_owners (by simp [tokenPieces]) (by simp [tokenPieces]))
      fun _ => keeps_levelSetValid lv b

/-! ## DECODE -/

/-- Level (c, l), if there is one, is initialized. -/
def LevelReady (c l : Nat) (s : State) : Prop := c < 4 → l < 3 → (levelAt s c l).init = true

theorem keeps_ensureLevel (c l w h : Nat) : Keeps LevelOwners (ensureLevel c l w h) := by
  refine keeps_bind keeps_get fun s => ?_
  split
  · exact keeps_pure _
  · exact keeps_levelInit _ _ _ _

theorem ensureLevel_ok_ready {w h : Nat} (ho : ensureLevel c l w h s = .ok () t) : LevelReady c l t := by
  intro hc hl
  rw [ensureLevel, op_bind_of_ok (op_get s)] at ho
  split at ho
  next hi =>
    cases ho
    exact hi
  next =>
    have := levelInit_ok_init ho
    rwa [levelRef, BitVec.toNat_ofNat, BitVec.toNat_ofNat, Nat.mod_eq_of_lt (by omega), Nat.mod_eq_of_lt (by omega)]
      at this

theorem keeps_and {I J : State → Prop} {op : Op α} (hI : Keeps I op) (hJ : Keeps J op) :
    Keeps (fun s => I s ∧ J s) op := by
  intro s hs
  cases ho : op s with
  | ok a t => exact ⟨hI.ok hs.1 ho, hJ.ok hs.2 ho⟩
  | error e t => exact ⟨hI.error hs.1 ho, hJ.error hs.2 ho⟩

theorem Within.keeps_ready {op : Op α} (h : Within W op) (hl : .level ∉ W) : Keeps (LevelReady c l) op :=
  h.keeps fun _ _ hf hr hc hl' => (hf.level hl c l).symm ▸ hr hc hl'

/-- A level rewritten with its INIT flag kept leaves every initialized level initialized. -/
theorem LevelReady.setLevel (hs : LevelReady c l s) {c' l' : Nat} {lev : Level}
    (hi : lev.init = (levelAt s c' l').init) : LevelReady c l (setLevel c' l' lev s) := by
  intro hc hl
  by_cases h : c = c' ∧ l = l'
  · obtain ⟨rfl, rfl⟩ := h
    rw [levelAt_setLevel_same hc hl, hi]
    exact hs hc hl
  · rw [levelAt_setLevel_ne (by omega)]
    exact hs hc hl

theorem keeps_ready_levelSetValid (lv : LevelRef) (b : Nat) : Keeps (LevelReady c l) (levelSetValid lv b) := by
  have hfetched : Keeps (LevelReady c l) (fetchBandLevel lv b) :=
    (within_fetchBandLevel (W := []) lv b).keeps_ready List.not_mem_nil
  refine keeps_bind_then hfetched fun s lev u _ hfetch hu => ?_
  obtain ⟨-, -, rfl, -, -, rfl⟩ := fetchBandLevel_ok hfetch
  exact hu.setLevel rfl

/-- BAND.FILL uninitializes no level. -/
theorem keeps_ready_fillBand (lv : LevelRef) (b : Nat) : Keeps (LevelReady c l) (fillBand lv b) :=
  keeps_bind ((within_levelBandPlane (W := []) lv b).keeps_ready List.not_mem_nil) fun _ =>
    keeps_bind ((within_fillFrom_noLevel _ _ _ _).keeps_ready (by simp [tokenPieces])) fun _ =>
      keeps_ready_levelSetValid lv b

/-- One coded band: its level is initialized, so its quantization value leaves the level legal. -/
theorem keeps_fillCodedBand (numLevels b : Nat) :
    Keeps (fun s => LevelOwners s ∧ LevelReady c l s) (fillCodedBand c l numLevels b) := by
  have hseq : Within [.seq] (moveSeq .fill c l b) := within_moveSeq List.mem_cons_self _ _ _ _
  refine keeps_bind (keeps_and (hseq.keeps_owners (by simp) (by simp)) (hseq.keeps_ready (by simp))) fun _ =>
    keeps_bind (keeps_modify fun s hs => ?_) fun _ => keeps_and (keeps_fillBand _ _) (keeps_ready_fillBand _ _)
  obtain ⟨howners, hready⟩ := hs
  exact ⟨howners.setLevel (fun hc hl => levelLegal_setQuant (hready hc hl) _ _ (howners.legal _ hc _ hl))
    (levelBufs_setQuant _ _ _), hready.setLevel rfl⟩

theorem keeps_owners_moveSeq (phase : Phase) (c l b : Nat) : Keeps LevelOwners (moveSeq phase c l b) :=
  (within_moveSeq (W := [.seq]) List.mem_cons_self phase c l b).keeps_owners (by simp) (by simp)

theorem keeps_dequantBand (c l b : Nat) : Keeps LevelOwners (dequantBand c l b) :=
  keeps_bind (within_levelBandPlane _ _).keeps_owners_nil fun _ =>
    keeps_bind (keeps_owners_moveSeq _ _ _ _) fun _ =>
      keeps_bind keeps_get fun _ =>
        (within_levelDequant (W := [.element]) List.mem_cons_self _ _ _).keeps_owners (by simp) (by simp)

theorem keeps_levelRecon (lv : LevelRef) (dest : Sink) (prescale : BitVec 4) (clamp : Bool) :
    Keeps LevelOwners (levelRecon lv dest prescale clamp) :=
  (within_levelRecon (W := [.element, .dest]) (by simp) (by simp) lv dest prescale clamp).keeps_owners (by simp)
    (by simp)

/-- A level of DECODE: the bands are filled where LV.INIT has made the level or found it initialized. -/
theorem keeps_decodeLevel_owners (c numLevels l : Nat) : Keeps LevelOwners (decodeLevel c numLevels l) := by
  refine keeps_bind keeps_get fun s => keeps_bind_then (keeps_ensureLevel _ _ _ _) fun _ _ u _ hensure hu => ?_
  refine lands_bind (fun _ => And.left) (keeps_forFrom (fun b => keeps_fillCodedBand numLevels b) _ _ u
    ⟨hu, ensureLevel_ok_ready hensure⟩) fun _ v _ hv => ?_
  refine keeps_bind (keeps_forFrom (keeps_dequantBand c l) _ _) (fun _ => ?_) v hv.1
  by_cases hl : l = 0
  · simp only [if_pos hl]
    exact keeps_bind (keeps_owners_moveSeq _ _ _ _) fun _ => keeps_levelRecon _ _ _ _
  · simp only [if_neg hl]
    exact keeps_bind (keeps_ensureLevel _ _ _ _) fun _ =>
      keeps_bind (within_levelBandPlane _ _).keeps_owners_nil fun _ =>
        keeps_bind (keeps_owners_moveSeq _ _ _ _) fun _ => keeps_bind (keeps_levelRecon _ _ _ _) fun _ =>
          keeps_levelSetValid _ _

theorem keeps_decodeLevels_owners (c numLevels k : Nat) : Keeps LevelOwners (decodeLevels c numLevels k) := by
  induction k with
  | zero => exact keeps_pure _
  | succ k ih => exact keeps_bind (keeps_decodeLevel_owners c numLevels k) fun _ => ih

theorem keeps_decodeImage (x y : U16) : Keeps LevelOwners (decodeImage x y) := by
  have hstart (s : State) (hs : LevelOwners s) : LevelOwners (imageStart x y s) :=
    hs.of_kept (fun _ _ => rfl) rfl le_rfl (fun _ _ => rfl) hs.bufs
  have hdone (s : State) (hs : LevelOwners s) : LevelOwners (setSess .done s) :=
    hs.of_kept (fun _ _ => rfl) rfl le_rfl (fun _ _ => rfl) hs.bufs
  have hparse : Within [.pos, .hdr] (parseHeader readField) :=
    within_parseHeader (by simp) fun _ => within_bitRead (by simp) _
  rw [decodeImage_eq]
  exact keeps_bind keeps_get fun s => keeps_bind (within_failIf (s.sess ≠ .ready) _ _).keeps_owners_nil fun _ =>
    keeps_bind (keeps_modify hstart) fun _ =>
      keeps_bind (keeps_bind (hparse.keeps_owners (by simp) (by simp)) fun _ =>
        keeps_bind within_checkDestRegion.keeps_owners_nil fun _ => keeps_bind keeps_get fun _ =>
          keeps_bind (keeps_forFrom (fun c => keeps_bind keeps_get fun _ => keeps_decodeLevels_owners c _ _) _ _)
            fun _ => keeps_owners_moveSeq _ _ _ _) fun _ => keeps_modify hdone

/-! ## Instructions and steps -/

theorem finishUnit_keeps_owners {op : Op Unit} (hop : Keeps LevelOwners op) (hs : LevelOwners s)
    (h : finishUnit op s = .next t) : LevelOwners t :=
  finish_keeps (keeps_bind hop fun _ => keeps_pure _) (fun _ r hs => hs.setResult r) hs h

/-- After RESET no level has a buffer and BUF is empty. -/
theorem levelOwners_resetState (s : State) : LevelOwners (resetState s) := by
  have hlevel (c l : Nat) : levelAt (resetState s) c l = Level.reset := levelAt_reset c l
  refine ⟨fun c _ l _ => ?_, fun c _ l _ => ?_, fun c _ l _ c' _ l' _ _ => ?_, fun c _ l _ => ?_, nofun⟩ <;>
    rw [hlevel]
  · exact levelLegal_reset _
  · exact List.nodup_nil
  · exact List.disjoint_nil_left _
  · exact nofun

/-- By the rows of `writes` all but five instructions write no level and drop no buffer. -/
theorem exec_levelOwners {i : Instr} (hs : LevelOwners s) (h : exec i s = .next t) : LevelOwners t := by
  rcases exec_cases h with ⟨-, rfl⟩ | ⟨input, dest, -, -, -, rfl⟩ | hreach
  · exact (levelOwners_resetState s).setResult .none
  · exact hs.of_kept (fun _ _ => rfl) rfl le_rfl (fun _ _ => rfl) hs.bufs
  · cases i with
    | decode x y => exact finishUnit_keeps_owners (keeps_decodeImage x y) hs h
    | lvInit lv w ht n => exact finishUnit_keeps_owners (keeps_levelInit lv w ht n) hs h
    | lvClear lv => exact finishUnit_keeps_owners (keeps_levelClear lv) hs h
    | lvSetValid lv b => exact finishUnit_keeps_owners (keeps_levelSetValid lv _) hs h
    | bandFill lv b => exact finishUnit_keeps_owners (keeps_fillBand lv _) hs h
    | _ => exact hs.reaches hreach (by simp [writes]) (by simp [writes])

theorem step_levelOwners (hs : LevelOwners s) (h : step s = .next t) : LevelOwners t :=
  step_keeps (fun _ _ hs => hs.of_kept (fun _ _ => rfl) rfl le_rfl (fun _ _ => rfl) hs.bufs)
    (fun _ _ _ => exec_levelOwners) (fun _ _ hs hr => hs.reaches hr (by simp) (by simp)) hs h

end Sys2Proof.Machine
end

section
/-! SUPPORT. Planes (`42_plane.md` R150 to R157): which checks an access meets, what a write of an element leaves alone,
and the elements of a plane in row-major order, as the loops over a plane visit them. -/

namespace Sys2Proof.Machine

variable {s t u : State} {p : Plane} {x y : Nat}

/-! ## Descriptors -/

/-- A descriptor that does not dangle has its array. -/
theorem liveBuffer_of_not_dangling (h : ¬dangling s p) : ∃ id b, liveBuffer s p = some (id, b) := by
  obtain ⟨⟨id, b⟩, hl⟩ := Option.ne_none_iff_exists'.mp (mt dangling_iff.mpr h)
  exact ⟨id, b, hl⟩

theorem planeLegal_not_dangling (h : planeLegal s p) : ¬dangling s p := by
  obtain ⟨id, b, hl, -⟩ := planeLegal_buffer h
  exact not_dangling hl

theorem planeLegal_addr_lt (h : planeLegal s p) (hx : x < p.width.toNat) (hy : y < p.height.toNat) :
    planeAddr p x y < planeLen s p := by
  obtain ⟨id, b, hl, hb⟩ := planeLegal_buffer h
  rw [planeLen_live hl]
  exact planeAddr_lt hx hy hb

/-! ## The checks of one access -/

theorem checkAccess_dangling (h : dangling s p) :
    checkAccess p x y s = .error .raised (takeError .danglingView 0 s) :=
  op_bind_of_error (checkDescriptor_dead (dangling_iff.mp h))

/-- An element outside the plane, or outside its buffer (log 7), raises PlaneBounds. -/
theorem checkAccess_outside (h : ¬dangling s p)
    (hout : p.width.toNat ≤ x ∨ p.height.toNat ≤ y ∨ planeLen s p ≤ planeAddr p x y) :
    checkAccess p x y s = .error .raised (takeError .planeBounds (x * 65536 + y) s) := by
  obtain ⟨id, b, hl⟩ := liveBuffer_of_not_dangling h
  rw [planeLen_live hl] at hout
  exact (op_bind_of_ok (checkDescriptor_found hl)).trans (op_bind_of_error (failIf_pos hout _ _ s))

theorem planeRead_raised {s' : State} (h : checkAccess p x y s = .error .raised s') :
    planeRead p x y s = .error .raised s' := op_bind_of_error h

theorem planeWrite_raised {s' : State} (v : Coef) (h : checkAccess p x y s = .error .raised s') :
    planeWrite p x y v s = .error .raised s' := op_bind_of_error h

/-- A read inside the plane and its buffer gives the element at its address. -/
theorem planeRead_inside (h : ¬dangling s p) (hx : x < p.width.toNat) (hy : y < p.height.toNat)
    (ha : planeAddr p x y < planeLen s p) :
    ∃ v, planeAt s p x y = some v ∧ planeRead p x y s = .ok v s := by
  obtain ⟨id, b, hl⟩ := liveBuffer_of_not_dangling h
  obtain ⟨-, hbuf, hb⟩ := liveBuffer_eq_some.mp hl
  rw [planeLen_live hl] at ha
  refine ⟨_, ?_, planeRead_found hl hx hy ha⟩
  rw [planeAt, hbuf, Option.bind_some, coefAt, hb, Option.bind_some, if_pos ha]

/-! ## Changes of elements -/

/-- `t` differs from `s` in elements of buffers only: every buffer is there as long as it was. -/
structure OnlyElements (s t : State) : Prop where
  rest : t = { s with bufs := t.bufs }
  len : ∀ id, bufLen t id = bufLen s id
  wf : storageWf t

theorem OnlyElements.refl (h : storageWf s) : OnlyElements s s := ⟨rfl, fun _ => rfl, h⟩

theorem OnlyElements.trans (hst : OnlyElements s t) (htu : OnlyElements t u) : OnlyElements s u :=
  ⟨by rw [htu.rest, hst.rest], fun id => (htu.len id).trans (hst.len id), htu.wf⟩

theorem OnlyElements.epoch (h : OnlyElements s t) : t.epoch = s.epoch := by rw [h.rest]

theorem OnlyElements.planeLen_eq (h : OnlyElements s t) (p : Plane) : planeLen t p = planeLen s p := by
  rw [Machine.planeLen_eq, Machine.planeLen_eq, h.epoch, funext h.len]

theorem dangling_iff_bufLen : dangling s p ↔ p.epoch ≠ s.epoch ∨ p.buf.bind (bufLen s) = none := by
  unfold dangling bufLen
  cases p.buf <;> simp

theorem OnlyElements.dangling_iff (h : OnlyElements s t) (p : Plane) : dangling t p ↔ dangling s p := by
  rw [dangling_iff_bufLen, dangling_iff_bufLen, h.epoch, funext h.len]

theorem coefAt_isSome (s : State) (id e : Nat) : (coefAt s id e).isSome = (bufLen s id).any (e < ·) := by
  unfold coefAt bufLen
  cases bufFind s.bufs id with
  | none => rfl
  | some b =>
    simp only [Option.bind_some, Option.map_some, Option.any_some]
    split <;> simp [*]

theorem OnlyElements.coefAt_isSome (h : OnlyElements s t) (id e : Nat) :
    (coefAt t id e).isSome = (coefAt s id e).isSome := by
  rw [Machine.coefAt_isSome, Machine.coefAt_isSome, h.len]

/-- One element set to `v` in a storage read as a function of the address. -/
def setElement {β : Type} (m : Nat → Nat → β) (p : Plane) (x y : Nat) (v : β) : Nat → Nat → β :=
  fun id e => if p.buf = some id ∧ e = planeAddr p x y then v else m id e

/-- A write inside the plane and its buffer changes the one element at its address. -/
theorem planeWrite_inside (hwf : storageWf s) (h : ¬dangling s p) (hx : x < p.width.toNat) (hy : y < p.height.toNat)
    (ha : planeAddr p x y < planeLen s p) (v : Coef) :
    ∃ t, planeWrite p x y v s = .ok () t ∧ OnlyElements s t ∧
      coefAt t = setElement (coefAt s) p x y (some v) := by
  obtain ⟨id, b, hl⟩ := liveBuffer_of_not_dangling h
  obtain ⟨-, hbuf, hb⟩ := liveBuffer_eq_some.mp hl
  rw [planeLen_live hl] at ha
  refine ⟨_, planeWrite_found hl hx hy ha, ⟨rfl, bufLen_put_element hb _, ?_⟩, ?_⟩
  · exact storageWf_write (.element s id _ b v hb ha) hwf
  · funext id' e
    have hcells : Cells.wf b.cells := ((storageWf_iff.mp hwf).2.2.2 _ (bufFind_mem hb)).1
    rw [coefAt_put hb hcells ha, setElement, hbuf]
    simp only [Option.some.injEq, eq_comm]

/-! ## Row-major order -/

theorem mem_rowMajor {w h : Nat} {xy : Nat × Nat} : xy ∈ rowMajor w h ↔ xy.1 < w ∧ xy.2 < h := by
  obtain ⟨x, y⟩ := xy
  simp [rowMajor, and_comm]

theorem mem_rowMajorBefore {w : Nat} {xy : Nat × Nat} :
    xy ∈ rowMajorBefore w x y ↔ (xy.1 < w ∧ xy.2 < y) ∨ (xy.1 < x ∧ xy.2 = y) := by
  rw [rowMajorBefore, List.mem_append, mem_rowMajor]
  obtain ⟨x', y'⟩ := xy
  simp [eq_comm]

theorem inPlane_iff_mem_rowMajor {id e : Nat} :
    inPlane p id e ↔ p.buf = some id ∧ ∃ xy ∈ rowMajor p.width.toNat p.height.toNat, e = planeAddr p xy.1 xy.2 := by
  simp only [inPlane, mem_rowMajor, Prod.exists, and_assoc]

/-- A range as what comes before an index, the index, and the rest. -/
theorem range_split {k n : Nat} (h : k < n) : ∃ post, List.range n = List.range k ++ k :: post := by
  refine ⟨List.range' (k + 1) (n - (k + 1)), ?_⟩
  calc List.range n
    _ = List.range' 0 k ++ List.range' (0 + k) (n - k) := by
        rw [List.range'_append_1, Nat.add_sub_cancel' h.le, List.range_eq_range']
    _ = List.range k ++ k :: List.range' (k + 1) (n - (k + 1)) := by
        rw [Nat.zero_add, ← List.range'_succ, show n - (k + 1) + 1 = n - k by omega, List.range_eq_range']

/-- The elements of a plane are those before (x, y), (x, y), and the rest. -/
theorem rowMajor_split {w h : Nat} (hx : x < w) (hy : y < h) :
    ∃ post, rowMajor w h = rowMajorBefore w x y ++ (x, y) :: post := by
  obtain ⟨xs, hxs⟩ := range_split hx
  obtain ⟨ys, hys⟩ := range_split hy
  refine ⟨xs.map (·, y) ++ ys.flatMap fun y => (List.range w).map (·, y), ?_⟩
  simp only [rowMajor, rowMajorBefore, hys, List.flatMap_append, List.flatMap_cons]
  rw [hxs]
  simp

theorem forFrom_eq_forM (f : Nat → Op Unit) (start n : Nat) :
    forFrom start n f = forM (List.range' start n) f := by
  induction n generalizing start with
  | zero => rfl
  | succ n ih => rw [List.range'_succ, List.forM_cons, ← ih, forFrom]

/-- The two nested loops over a plane are one loop over its elements in row-major order. -/
theorem forFrom_forFrom_eq_forM (f : Nat → Nat → Op Unit) (w h : Nat) :
    (forFrom 0 h fun y => forFrom 0 w fun x => f x y) = forM (rowMajor w h) fun xy => f xy.1 xy.2 := by
  simp only [forFrom_eq_forM, rowMajor, List.range_eq_range']
  induction List.range' 0 h with
  | nil => rfl
  | cons y ys ih =>
    rw [List.forM_cons, ih, List.flatMap_cons, List.forM_append]
    congr 1
    induction List.range' 0 w with
    | nil => rfl
    | cons x xs ihx => rw [List.forM_cons, ihx, List.map_cons, List.forM_cons]

/-- A loop every turn of which answers and keeps `J`: what `view` shows of its end is the fold of what the turns do to
the view. -/
theorem forM_view {β M : Type} {f : β → Op Unit} {J : State → Prop} {view : State → M} {turn : M → β → M}
    {l : List β} (hf : ∀ a ∈ l, ∀ s, J s → ∃ t, f a s = .ok () t ∧ J t ∧ view t = turn (view s) a) (hs : J s) :
    ∃ t, forM l f s = .ok () t ∧ J t ∧ view t = l.foldl turn (view s) := by
  induction l generalizing s with
  | nil => exact ⟨s, rfl, hs, rfl⟩
  | cons a l ih =>
    obtain ⟨u, hu, hJ, hview⟩ := hf a List.mem_cons_self s hs
    obtain ⟨t, ht, hJt, hviewt⟩ := ih (fun b hb => hf b (List.mem_cons_of_mem _ hb)) hJ
    exact ⟨t, by rw [List.forM_cons, op_bind_of_ok hu, ht], hJt, by rw [hviewt, hview, List.foldl_cons]⟩

/-- A loop over a plane whose turn at (x, y) is the first to raise stops there, with the turns before it done. -/
theorem forM_rowMajor_raised {M : Type} {f : Nat × Nat → Op Unit} {J : State → Prop} {view : State → M}
    {turn : M → Nat × Nat → M} {w h : Nat} {c : Cause} {info : Nat} (hx : x < w) (hy : y < h)
    (hf : ∀ xy ∈ rowMajorBefore w x y, ∀ s, J s → ∃ t, f xy s = .ok () t ∧ J t ∧ view t = turn (view s) xy)
    (hstop : ∀ s, J s → f (x, y) s = .error .raised (takeError c info s)) (hs : J s) :
    ∃ u, forM (rowMajor w h) f s = .error .raised (takeError c info u) ∧ J u ∧
      view u = (rowMajorBefore w x y).foldl turn (view s) := by
  obtain ⟨u, hu, hJ, hview⟩ := forM_view hf hs
  obtain ⟨post, hpost⟩ := rowMajor_split hx hy
  refine ⟨u, ?_, hJ, hview⟩
  rw [hpost, List.forM_append, op_bind_of_ok hu, List.forM_cons, op_bind_of_error (hstop u hJ)]

/-- The turns before the first element with `P` have none with it. -/
theorem firstOutside_before {w h : Nat} {P : Nat → Nat → Prop} (hout : firstOutside w h x y P) {xy : Nat × Nat}
    (hxy : xy ∈ rowMajorBefore w x y) : xy.1 < w ∧ xy.2 < h ∧ ¬P xy.1 xy.2 := by
  obtain ⟨hx, hy, -, hfirst⟩ := hout
  rcases mem_rowMajorBefore.mp hxy with ⟨hx', hy'⟩ | ⟨hx', hy'⟩
  · exact ⟨hx', by omega, hfirst _ _ hx' (.inl hy')⟩
  · exact ⟨by omega, by omega, hfirst _ _ (by omega) (.inr ⟨hy', hx'⟩)⟩

/-! ## PL.CREATE, PL.READ, PL.WRITE, PL.VIEW -/

theorem exec_plCreate_badDimensions {w h : U16} (hwh : w = 0 ∨ h = 0) (s : State) :
    exec (.plCreate w h) s = .next (trapped .badDimensions (w.toNat * 65536 + h.toNat) s) :=
  finish_map_of_raised (op_bind_of_error (failIf_pos hwh _ _ s)) .plane

theorem exec_plCreate {w h : U16} (hw : w ≠ 0) (hh : h ≠ 0) (s : State) :
    exec (.plCreate w h) s = .next (setResult (.plane ⟨some s.nextBuf, 0, w, h, w, true, s.epoch⟩)
      (setNextBuf (s.nextBuf + 1) (setBufs (bufPut s.bufs s.nextBuf ⟨w.toNat * h.toNat, []⟩) s))) :=
  finish_map_of_ok (planeCreate_legal hw hh s) .plane

/-- A read whose access raises. -/
theorem exec_plRead_raised {x y : U16} {c : Cause} {info : Nat}
    (h : checkAccess p x.toNat y.toNat s = .error .raised (takeError c info s)) :
    exec (.plRead p x y) s = .next (trapped c info s) := finish_map_of_raised (planeRead_raised h) .coef

/-- A write whose access raises. -/
theorem exec_plWrite_raised {x y : U16} {c : Cause} {info : Nat} (v : Coef)
    (h : checkAccess p x.toNat y.toNat s = .error .raised (takeError c info s)) :
    exec (.plWrite p x y v) s = .next (trapped c info s) := finishUnit_of_raised (planeWrite_raised v h)

/-- PL.VIEW on a live descriptor: its size is checked, then its place in the parent. -/
theorem planeView_live {id : Nat} {b : Buffer} (hl : liveBuffer s p = some (id, b)) (x0 y0 w h : U16) :
    planeView p x0 y0 w h s =
      if w = 0 ∨ h = 0 then .error .raised (takeError .badDimensions (w.toNat * 65536 + h.toNat) s)
      else if p.width.toNat < x0.toNat + w.toNat ∨ p.height.toNat < y0.toNat + h.toNat then
        .error .raised (takeError .planeBounds (x0.toNat * 65536 + y0.toNat) s)
      else .ok (viewOf p x0 y0 w h) s := by
  rw [planeView, op_bind_of_ok (checkDescriptor_found hl)]
  by_cases hsize : w = 0 ∨ h = 0
  · rw [if_pos hsize, op_bind_of_error (failIf_pos hsize _ _ s)]
  · rw [if_neg hsize, op_bind_of_ok (failIf_neg hsize _ _ s)]
    by_cases hplace : p.width.toNat < x0.toNat + w.toNat ∨ p.height.toNat < y0.toNat + h.toNat
    · rw [if_pos hplace, op_bind_of_error (failIf_pos hplace _ _ s)]
    · rw [if_neg hplace, op_bind_of_ok (failIf_neg hplace _ _ s), op_pure]

/-- PL.VIEW's checks in their order (R156). -/
theorem exec_plView (s : State) (p : Plane) (x0 y0 w h : U16) :
    exec (.plView p x0 y0 w h) s = .next
      (if dangling s p then trapped .danglingView 0 s
      else if w = 0 ∨ h = 0 then trapped .badDimensions (w.toNat * 65536 + h.toNat) s
      else if p.width.toNat < x0.toNat + w.toNat ∨ p.height.toNat < y0.toNat + h.toNat then
        trapped .planeBounds (x0.toNat * 65536 + y0.toNat) s
      else setResult (.plane (viewOf p x0 y0 w h)) s) := by
  by_cases hd : dangling s p
  · rw [if_pos hd]
    exact finish_map_of_raised (op_bind_of_error (checkDescriptor_dead (dangling_iff.mp hd))) .plane
  · obtain ⟨id, b, hl⟩ := liveBuffer_of_not_dangling hd
    have hview := planeView_live hl x0 y0 w h
    rw [if_neg hd]
    split_ifs at hview ⊢
    · exact finish_map_of_raised hview .plane
    · exact finish_map_of_raised hview .plane
    · exact finish_map_of_ok hview .plane

/-- Element (x, y) of a view is element (x0 + x, y0 + y) of its parent. -/
theorem planeAddr_viewOf (p : Plane) (x0 y0 w h : U16) (x y : Nat) :
    planeAddr (viewOf p x0 y0 w h) x y = planeAddr p (x0.toNat + x) (y0.toNat + y) := by
  simp only [planeAddr, viewOf]
  ring

theorem planeLegal_viewOf {x0 y0 w h : U16} (hp : planeLegal s p) (hw : w ≠ 0) (hh : h ≠ 0)
    (hx : x0.toNat + w.toNat ≤ p.width.toNat) (hy : y0.toNat + h.toNat ≤ p.height.toNat) :
    planeLegal s (viewOf p x0 y0 w h) := by
  have hw1 : 1 ≤ w.toNat := by bv_omega
  have hh1 : 1 ≤ h.toNat := by bv_omega
  have hlast := planeLegal_addr_lt (x := x0.toNat + (w.toNat - 1)) (y := y0.toNat + (h.toNat - 1)) hp (by omega)
    (by omega)
  rw [← planeAddr_viewOf p x0 y0 w h] at hlast
  obtain ⟨hstride, -, -, -⟩ := hp
  refine ⟨by simp only [viewOf]; omega, hw1, hh1, ?_⟩
  change (viewOf p x0 y0 w h).base + (h.toNat - 1) * p.stride.toNat + w.toNat ≤ planeLen s p
  change (viewOf p x0 y0 w h).base + (h.toNat - 1) * p.stride.toNat + (w.toNat - 1) < planeLen s p at hlast
  omega

/-! ## PL.CLEAR -/

/-- The clearing of the elements at the positions `l`, in any order. -/
theorem foldl_setElement (p : Plane) (l : List (Nat × Nat)) (m : Nat → Nat → Option Coef) (id e : Nat) :
    l.foldl (fun m xy => setElement m p xy.1 xy.2 (some 0)) m id e =
      if p.buf = some id ∧ ∃ xy ∈ l, e = planeAddr p xy.1 xy.2 then some 0 else m id e := by
  induction l generalizing m with
  | nil => simp
  | cons xy l ih =>
    rw [List.foldl_cons, ih, setElement, ← ite_or]
    exact if_congr (by rw [← and_or_left, or_comm, List.exists_mem_cons_iff]) rfl rfl

/-- One turn of PL.CLEAR from a state that has changed in elements only. -/
theorem planeClear_turn (hd : ¬dangling s p) {xy : Nat × Nat} (hx : xy.1 < p.width.toNat) (hy : xy.2 < p.height.toNat)
    (ha : planeAddr p xy.1 xy.2 < planeLen s p) (hu : OnlyElements s u) :
    ∃ t, planeWrite p xy.1 xy.2 0 u = .ok () t ∧ OnlyElements s t ∧
      coefAt t = setElement (coefAt u) p xy.1 xy.2 (some 0) := by
  obtain ⟨t, ht, helem, hcoef⟩ := planeWrite_inside hu.wf (mt (hu.dangling_iff p).mp hd) hx hy
    (hu.planeLen_eq p ▸ ha) 0
  exact ⟨t, ht, hu.trans helem, hcoef⟩

theorem planeClear_eq (hd : ¬dangling s p) :
    planeClear p s = forM (rowMajor p.width.toNat p.height.toNat) (fun xy => planeWrite p xy.1 xy.2 0) s := by
  obtain ⟨id, b, hl⟩ := liveBuffer_of_not_dangling hd
  rw [planeClear, op_bind_of_ok (checkDescriptor_found hl), forFrom_forFrom_eq_forM]

/-- PL.CLEAR on a plane all of whose elements are inside its buffer. -/
theorem planeClear_inside (hwf : storageWf s) (hd : ¬dangling s p)
    (ha : ∀ x y, x < p.width.toNat → y < p.height.toNat → planeAddr p x y < planeLen s p) :
    ∃ t, planeClear p s = .ok () t ∧ OnlyElements s t ∧
      ∀ id e, coefAt t id e =
        if p.buf = some id ∧ ∃ xy ∈ rowMajor p.width.toNat p.height.toNat, e = planeAddr p xy.1 xy.2 then some 0
        else coefAt s id e := by
  obtain ⟨t, ht, helem, hcoef⟩ := forM_view (J := OnlyElements s) (view := coefAt)
    (turn := fun m xy => setElement m p xy.1 xy.2 (some 0)) (fun xy hxy u hu =>
      have ⟨hx, hy⟩ := mem_rowMajor.mp hxy
      planeClear_turn hd hx hy (ha _ _ hx hy) hu) (.refl hwf)
  exact ⟨t, (planeClear_eq hd).trans ht, helem, fun id e => by rw [hcoef, foldl_setElement]⟩

/-- PL.CLEAR on a plane whose first element outside its buffer is (x, y) (log 7). -/
theorem planeClear_outside (hwf : storageWf s) (hd : ¬dangling s p)
    (hout : firstOutside p.width.toNat p.height.toNat x y fun x y => planeLen s p ≤ planeAddr p x y) :
    ∃ u, planeClear p s = .error .raised (takeError .planeBounds (x * 65536 + y) u) ∧ OnlyElements s u ∧
      ∀ id e, coefAt u id e =
        if p.buf = some id ∧ ∃ xy ∈ rowMajorBefore p.width.toNat x y, e = planeAddr p xy.1 xy.2 then some 0
        else coefAt s id e := by
  have hturn : ∀ xy ∈ rowMajorBefore p.width.toNat x y, ∀ u, OnlyElements s u →
      ∃ t, planeWrite p xy.1 xy.2 0 u = .ok () t ∧ OnlyElements s t ∧
        coefAt t = setElement (coefAt u) p xy.1 xy.2 (some 0) := fun xy hxy u hu =>
    have ⟨hx, hy, ha⟩ := firstOutside_before hout hxy
    planeClear_turn hd hx hy (Nat.lt_of_not_le ha) hu
  obtain ⟨hx, hy, ha, -⟩ := hout
  obtain ⟨u, hu, helem, hcoef⟩ := forM_rowMajor_raised (view := coefAt)
    (turn := fun m xy => setElement m p xy.1 xy.2 (some 0)) hx hy hturn
    (fun v hv => planeWrite_raised 0 (checkAccess_outside (mt (hv.dangling_iff p).mp hd)
      (.inr (.inr (hv.planeLen_eq p ▸ ha))))) (.refl hwf)
  exact ⟨u, (planeClear_eq hd).trans hu, helem, fun id e => by rw [hcoef, foldl_setElement]⟩

/-! ## LV.DEQUANT -/

/-- One turn of LV.DEQUANT's loop (`43_level.md` R171). -/
def dequantElement (out inp : Plane) (q : U16) (xy : Nat × Nat) : Op Unit := do
  let v ← planeRead inp xy.1 xy.2
  planeWrite out xy.1 xy.2 (scaleCoef q v)

/-- The loop of LV.DEQUANT where its checks pass. -/
theorem levelDequant_eq {out inp : Plane} (q : U16) (ho : ¬dangling s out) (hi : ¬dangling s inp)
    (hw : out.width = inp.width) (hh : out.height = inp.height) :
    levelDequant out inp q s =
      (forM (rowMajor inp.width.toNat inp.height.toNat) (dequantElement out inp q) : Op Unit) s := by
  obtain ⟨_, _, hlo⟩ := liveBuffer_of_not_dangling ho
  obtain ⟨_, _, hli⟩ := liveBuffer_of_not_dangling hi
  rw [levelDequant, op_bind_of_ok (checkDescriptor_found hlo), op_bind_of_ok (checkDescriptor_found hli),
    op_bind_of_ok (failIf_neg (not_or.mpr ⟨not_not.mpr hw, not_not.mpr hh⟩) _ _ s),
    forFrom_forFrom_eq_forM fun x y => planeRead inp x y >>= fun v => planeWrite out x y (scaleCoef q v)]
  rfl

/-- A turn of LV.DEQUANT on elements inside both buffers. -/
theorem dequantElement_inside {out inp : Plane} {ido idi : Nat} (q : U16) (hwf : storageWf s) (ho : ¬dangling s out)
    (hi : ¬dangling s inp) (hbo : out.buf = some ido) (hbi : inp.buf = some idi) (hxo : x < out.width.toNat)
    (hyo : y < out.height.toNat) (hxi : x < inp.width.toNat) (hyi : y < inp.height.toNat)
    (hao : planeAddr out x y < planeLen s out) (hai : planeAddr inp x y < planeLen s inp) :
    ∃ t, dequantElement out inp q (x, y) s = .ok () t ∧ OnlyElements s t ∧
      (∀ id e, ¬inPlane out id e → coefAt t id e = coefAt s id e) ∧
      coefMap t = dequantTurn q (coefMap s) idi (planeAddr inp x y) ido (planeAddr out x y) := by
  obtain ⟨v, hv, hread⟩ := planeRead_inside hi hxi hyi hai
  obtain ⟨t, ht, helem, hcoef⟩ := planeWrite_inside hwf ho hxo hyo hao (scaleCoef q v)
  refine ⟨t, (op_bind_of_ok hread).trans ht, helem, fun id e hout => ?_, ?_⟩
  · rw [hcoef, setElement, if_neg]
    rintro ⟨hbuf, rfl⟩
    exact hout ⟨hbuf, x, y, hxo, hyo, rfl⟩
  · rw [planeAt, hbi, Option.bind_some] at hv
    funext id e
    simp only [coefMap, hcoef, setElement, dequantTurn, hbo, hv, Option.some.injEq, eq_comm (a := ido)]
    split <;> rfl

/-- A turn of LV.DEQUANT on an element outside one of the buffers. -/
theorem dequantElement_outside {out inp : Plane} (q : U16) (ho : ¬dangling s out) (hi : ¬dangling s inp)
    (hxi : x < inp.width.toNat) (hyi : y < inp.height.toNat)
    (hout : planeLen s inp ≤ planeAddr inp x y ∨ planeLen s out ≤ planeAddr out x y) :
    dequantElement out inp q (x, y) s = .error .raised (takeError .planeBounds (x * 65536 + y) s) := by
  by_cases hai : planeLen s inp ≤ planeAddr inp x y
  · exact op_bind_of_error (planeRead_raised (checkAccess_outside hi (.inr (.inr hai))))
  · obtain ⟨v, -, hread⟩ := planeRead_inside hi hxi hyi (Nat.lt_of_not_le hai)
    exact (op_bind_of_ok hread).trans
      (planeWrite_raised _ (checkAccess_outside ho (.inr (.inr (hout.resolve_left hai)))))

/-- `t` differs from `s` in elements of the plane `p` only. -/
structure OnlyPlane (p : Plane) (s t : State) : Prop where
  elements : OnlyElements s t
  outside : ∀ id e, ¬inPlane p id e → coefAt t id e = coefAt s id e

/-- LV.DEQUANT on planes the first element of which outside a buffer is (x, y) (log 7). -/
theorem levelDequant_outside {out inp : Plane} {ido idi : Nat} (q : U16) (hwf : storageWf s) (ho : ¬dangling s out)
    (hi : ¬dangling s inp) (hw : out.width = inp.width) (hh : out.height = inp.height) (hbo : out.buf = some ido)
    (hbi : inp.buf = some idi)
    (hout : firstOutside inp.width.toNat inp.height.toNat x y
      fun x y => planeLen s inp ≤ planeAddr inp x y ∨ planeLen s out ≤ planeAddr out x y) :
    ∃ u, levelDequant out inp q s = .error .raised (takeError .planeBounds (x * 65536 + y) u) ∧ OnlyPlane out s u ∧
      coefMap u = (rowMajorBefore inp.width.toNat x y).foldl
        (fun m xy => dequantTurn q m idi (planeAddr inp xy.1 xy.2) ido (planeAddr out xy.1 xy.2)) (coefMap s) := by
  have hlive (v : State) (hv : OnlyElements s v) : ¬dangling v out ∧ ¬dangling v inp :=
    ⟨mt (hv.dangling_iff out).mp ho, mt (hv.dangling_iff inp).mp hi⟩
  have hturn : ∀ xy ∈ rowMajorBefore inp.width.toNat x y, ∀ v, OnlyPlane out s v →
      ∃ t, dequantElement out inp q xy v = .ok () t ∧ OnlyPlane out s t ∧
        coefMap t = dequantTurn q (coefMap v) idi (planeAddr inp xy.1 xy.2) ido (planeAddr out xy.1 xy.2) := by
    intro xy hxy v hv
    obtain ⟨hx, hy, hin⟩ := firstOutside_before hout hxy
    obtain ⟨hai, hao⟩ := not_or.mp hin
    obtain ⟨hov, hiv⟩ := hlive v hv.elements
    rw [← hv.elements.planeLen_eq] at hai hao
    obtain ⟨t, ht, helem, hframe, hcoef⟩ := dequantElement_inside q hv.elements.wf hov hiv hbo hbi (hw ▸ hx)
      (hh ▸ hy) hx hy (Nat.lt_of_not_le hao) (Nat.lt_of_not_le hai)
    exact ⟨t, ht, ⟨hv.elements.trans helem, fun id e he => (hframe id e he).trans (hv.outside id e he)⟩, hcoef⟩
  obtain ⟨hx, hy, hfar, -⟩ := hout
  have hstop (v : State) (hv : OnlyPlane out s v) :
      dequantElement out inp q (x, y) v = .error .raised (takeError .planeBounds (x * 65536 + y) v) := by
    obtain ⟨hov, hiv⟩ := hlive v hv.elements
    rw [← hv.elements.planeLen_eq, ← hv.elements.planeLen_eq out] at hfar
    exact dequantElement_outside q hov hiv hx hy hfar
  obtain ⟨u, hu, hplane, hcoef⟩ := forM_rowMajor_raised (view := coefMap)
    (turn := fun m xy => dequantTurn q m idi (planeAddr inp xy.1 xy.2) ido (planeAddr out xy.1 xy.2)) hx hy hturn hstop
    ⟨.refl hwf, fun _ _ _ => rfl⟩
  exact ⟨u, (levelDequant_eq q ho hi hw hh).trans hu, hplane, hcoef⟩

/-! ## LV.RECON -/

/-- The check of a plane's elements stops at the first one outside the buffer, with nothing written. -/
theorem checkElements_outside (hd : ¬dangling s p)
    (hout : firstOutside p.width.toNat p.height.toNat x y fun x y => planeLen s p ≤ planeAddr p x y) :
    checkElements p s = .error .raised (takeError .planeBounds (x * 65536 + y) s) := by
  obtain ⟨id, b, hl⟩ := liveBuffer_of_not_dangling hd
  have hturn : ∀ xy ∈ rowMajorBefore p.width.toNat x y, ∀ v, v = s →
      ∃ t, (checkAccess p xy.1 xy.2 >>= fun _ => pure () : Op Unit) v = .ok () t ∧ t = s ∧ () = () := by
    rintro xy hxy v rfl
    obtain ⟨hx, hy, ha⟩ := firstOutside_before hout hxy
    rw [planeLen_live hl] at ha
    exact ⟨v, op_bind_of_ok (checkAccess_found hl hx hy (Nat.lt_of_not_le ha)), rfl, rfl⟩
  obtain ⟨hx, hy, ha, -⟩ := hout
  have hstop : ∀ v, v = s → (checkAccess p x y >>= fun _ => pure () : Op Unit) v =
      .error .raised (takeError .planeBounds (x * 65536 + y) v) := by
    rintro v rfl
    exact op_bind_of_error (checkAccess_outside hd (.inr (.inr ha)))
  -- a check leaves the state as it was, so there is nothing to view
  obtain ⟨u, hu, hus, -⟩ := forM_rowMajor_raised (view := fun _ => ()) (turn := fun _ _ => ()) hx hy hturn hstop rfl
  rw [checkElements, forFrom_forFrom_eq_forM fun x y => checkAccess p x y >>= fun _ => pure ()]
  exact hus ▸ hu

theorem exec_lvRecon_outside {lv : LevelRef} (prescale : BitVec 4) (clamp : Bool) (hc : lv.c.toNat ≤ 3)
    (hl : lv.l.toNat ≤ 2) (hv : allValid (levelAt s lv.c.toNat lv.l.toNat) = true) (hd : ¬dangling s p)
    (hw : p.width.toNat = 2 * (levelAt s lv.c.toNat lv.l.toNat).width.toNat)
    (hh : p.height.toNat = 2 * (levelAt s lv.c.toNat lv.l.toNat).height.toNat)
    (hout : firstOutside p.width.toNat p.height.toNat x y fun x y => planeLen s p ≤ planeAddr p x y) :
    exec (.lvRecon lv (.plane p) prescale clamp) s = .next (trapped .planeBounds (x * 65536 + y) s) := by
  obtain ⟨id, b, hlive⟩ := liveBuffer_of_not_dangling hd
  have hsink : checkSink (.plane p) (2 * (levelAt s lv.c.toNat lv.l.toNat).width.toNat)
      (2 * (levelAt s lv.c.toNat lv.l.toNat).height.toNat) clamp s =
        .error .raised (takeError .planeBounds (x * 65536 + y) s) := by
    rw [checkSink, op_bind_of_ok (checkDescriptor_found hlive),
      op_bind_of_ok (failIf_neg (not_or.mpr ⟨not_not.mpr hw, not_not.mpr hh⟩) _ _ s)]
    exact checkElements_outside hd hout
  refine finishUnit_of_raised ?_
  rw [levelRecon, op_bind_of_ok (fetchLevel_legal hc hl), op_bind_of_ok (failIf_neg (by simp [hv]) _ _ s),
    op_bind_of_error hsink]

end Sys2Proof.Machine
end

section
/-! THE STATEMENTS of `42_plane.md`, settled. -/

namespace Sys2Proof.Settled

open Sys2Proof.Machine

/-- Settles O12, by whole level operations: inside LV.INIT the level is not legal, so it is not kept write by write. -/
theorem levelsKept : Obligations.LevelsKept := by
  unfold Obligations.LevelsKept
  exact fun s t hs h => levelsLegal_iff.mpr (step_levelOwners (levelsLegal_iff.mp hs) h)

/-- Settles O39: the new buffer has an id BUF's other buffers do not have, and no cell listed. -/
theorem planeCreateResult : Obligations.PlaneCreateResult := by
  unfold Obligations.PlaneCreateResult
  refine ⟨fun _ => rfl, fun s w h hwh => exec_plCreate_badDimensions hwh s,
    fun s w h hw hh => ⟨_, exec_plCreate hw hh s, rfl, fun e => ?_, fun id e hid => ?_⟩⟩
  · simp [coefAt]
  · simp [coefAt, bufFind_bufPut_ne _ _ _ _ hid]

/-- Settles O40: the loop sets the elements in row-major order, and these are the elements of the plane. -/
theorem planeClearResult : Obligations.PlaneClearResult := by
  unfold Obligations.PlaneClearResult
  refine ⟨fun _ => rfl, fun s p hd => finishUnit_of_raised (op_bind_of_error
    (checkDescriptor_dead (dangling_iff.mp hd))), fun s p hwf hp => ?_⟩
  obtain ⟨t, ht, helem, hcoef⟩ := planeClear_inside hwf (planeLegal_not_dangling hp) fun _ _ => planeLegal_addr_lt hp
  refine ⟨_, finishUnit_of_ok ht, by rw [helem.rest]; rfl, fun id e he => ?_, fun id e he => ?_⟩
  · exact (hcoef id e).trans (if_pos (inPlane_iff_mem_rowMajor.mp he))
  · exact (hcoef id e).trans (if_neg (mt inPlane_iff_mem_rowMajor.mpr he))

/-- Settles O41: a legal plane is live and its elements lie inside its buffer, so the one access check passes. -/
theorem planeReadResult : Obligations.PlaneReadResult := by
  unfold Obligations.PlaneReadResult
  refine ⟨fun _ => rfl, fun s p x y hd => exec_plRead_raised (checkAccess_dangling hd),
    fun s p x y hd hout => exec_plRead_raised (checkAccess_outside hd (hout.elim .inl (.inr ∘ .inl))),
    fun s p id x y hp hbuf hx hy => ?_⟩
  obtain ⟨v, hv, hread⟩ := planeRead_inside (planeLegal_not_dangling hp) hx hy (planeLegal_addr_lt hp hx hy)
  rw [planeAt, hbuf, Option.bind_some] at hv
  exact ⟨v, hv, finish_map_of_ok hread .coef⟩

/-- Settles O42: the same access check as a read's, then one element set. -/
theorem planeWriteResult : Obligations.PlaneWriteResult := by
  unfold Obligations.PlaneWriteResult
  refine ⟨fun _ => rfl, fun s p x y v hd => exec_plWrite_raised v (checkAccess_dangling hd),
    fun s p x y v hd hout => exec_plWrite_raised v (checkAccess_outside hd (hout.elim .inl (.inr ∘ .inl))),
    fun s p id x y v hwf hp hbuf hx hy => ?_⟩
  obtain ⟨t, ht, helem, hcoef⟩ :=
    planeWrite_inside hwf (planeLegal_not_dangling hp) hx hy (planeLegal_addr_lt hp hx hy) v
  refine ⟨_, finishUnit_of_ok ht, by rw [helem.rest]; rfl, ?_, fun id' e hne => ?_⟩
  · exact (congrFun₂ hcoef id _).trans (if_pos ⟨hbuf, rfl⟩)
  · refine (congrFun₂ hcoef id' e).trans (if_neg ?_)
    rintro ⟨hbuf', rfl⟩
    exact hne ⟨Option.some.inj (hbuf'.symm.trans hbuf), rfl⟩

/-- Settles O43: the view's last element is an element of its parent, so a view of a legal plane is legal. -/
theorem planeViewResult : Obligations.PlaneViewResult := by
  unfold Obligations.PlaneViewResult
  refine ⟨fun _ => rfl, fun s p x0 y0 w h => exec_plView s p x0 y0 w h,
    fun s p x0 y0 w h hp hw hh hx hy => ⟨planeLegal_viewOf hp hw hh hx hy, fun x y => ?_⟩⟩
  rw [planeAt, planeAddr_viewOf]
  rfl

/-- Settles O53: every loop over a plane is one loop in row-major order, which stops at the first element that its
access check refuses. -/
theorem outsideAccess : Obligations.OutsideAccess := by
  unfold Obligations.OutsideAccess
  refine ⟨fun s p x y hd hx hy ha => ?_, fun s p x y hwf hd hout => ?_,
    fun s out inp q x y ido idi hwf ho hi hw hh hbo hbi hout => ?_,
    fun s lv p prescale clamp x y hc hl hv hd hw hh => exec_lvRecon_outside prescale clamp hc hl hv hd hw hh⟩
  · have hcheck := checkAccess_outside hd (.inr (.inr ha))
    exact ⟨exec_plRead_raised hcheck, fun v => exec_plWrite_raised v hcheck⟩
  · obtain ⟨u, hu, helem, hcoef⟩ := planeClear_outside hwf hd hout
    exact ⟨u, finishUnit_of_raised hu, helem.rest, hcoef⟩
  · obtain ⟨u, hu, hplane, hcoef⟩ := levelDequant_outside q hwf ho hi hw hh hbo hbi hout
    exact ⟨u, finishUnit_of_raised hu, hplane.elements.rest,
      fun id e => ⟨hplane.elements.coefAt_isSome id e, congrFun₂ hcoef id e⟩, hplane.outside⟩

end Sys2Proof.Settled
end

section
/-! SUPPORT. The wavelet level (`43_level.md` R165 to R172): its checks in their order, its mask bit by bit, and what
LV.INIT and LV.CLEAR leave, in any state. -/

namespace Sys2Proof.Machine

variable {s t u : State} {lv : LevelRef} {lev : Level} {b c l : Nat}

/-! ## The checks of a level reference and a band (`60_exceptions.md` R229) -/

theorem fetchLevel_levelIndex (h : 3 < lv.c.toNat ∨ 2 < lv.l.toNat) :
    fetchLevel lv s = .error .raised (takeError .levelIndex (lv.c.toNat * 256 + lv.l.toNat) s) :=
  op_bind_of_error (failIf_pos h _ _ s)

theorem fetchBandLevel_levelIndex (h : 3 < lv.c.toNat ∨ 2 < lv.l.toNat) :
    fetchBandLevel lv b s = .error .raised (takeError .levelIndex (lv.c.toNat * 256 + lv.l.toNat) s) :=
  op_bind_of_error (fetchLevel_levelIndex h)

section
variable (hc : lv.c.toNat ≤ 3) (hl : lv.l.toNat ≤ 2)
include hc hl

theorem fetchBandLevel_levelState (hi : (levelAt s lv.c.toNat lv.l.toNat).init = false) :
    fetchBandLevel lv b s = .error .raised (takeError .levelState (lv.c.toNat * 256 + lv.l.toNat) s) :=
  (op_bind_of_ok (fetchLevel_legal hc hl)).trans (op_bind_of_error (failIf_pos hi _ _ s))

theorem fetchBandLevel_bandIndex (hi : (levelAt s lv.c.toNat lv.l.toNat).init = true)
    (hb : (levelAt s lv.c.toNat lv.l.toNat).numBands.toNat ≤ b) :
    fetchBandLevel lv b s = .error .raised (takeError .bandIndex b s) :=
  (op_bind_of_ok (fetchLevel_legal hc hl)).trans
    ((op_bind_of_ok (failIf_neg (by simp [hi]) _ _ s)).trans (op_bind_of_error (failIf_pos hb _ _ s)))

end

theorem fetchBandLevel_ready (h : bandReady s lv b) :
    fetchBandLevel lv b s = .ok (levelAt s lv.c.toNat lv.l.toNat) s := by
  obtain ⟨hc, hl, hi, hb⟩ := h
  rw [fetchBandLevel, op_bind_of_ok (fetchLevel_legal hc hl), op_bind_of_ok (failIf_neg (by simp [hi]) _ _ s),
    op_bind_of_ok (failIf_neg (Nat.not_le.mpr hb) _ _ s), op_pure]

/-! ## The mask -/

/-- Setting a bit of the mask sets that bit and no other; past the mask's four bits it sets none. -/
theorem validBit_setValidBit (b : Nat) (lev : Level) {k : Nat} (hk : k < 4) :
    validBit (setValidBit b lev) k = (validBit lev k || k == b) := by
  have hbit : (BitVec.ofNat 4 (2 ^ b)).getLsbD k = (k == b) := by
    rw [BitVec.getLsbD_ofNat, Nat.testBit_two_pow, decide_eq_true hk, Bool.true_and, beq_eq_decide]
    exact decide_eq_decide.mpr eq_comm
  rw [validBit, validBit, setValidBit, BitVec.getLsbD_or, hbit]

theorem init_of_allValid (h : allValid lev = true) : lev.init = true := by
  rw [allValid, Bool.and_eq_true] at h
  exact h.1

/-- A mask inside the declared bands is full exactly where every declared band's bit is set. -/
theorem valid_full_iff (h : lev.valid.toNat < 2 ^ lev.numBands.toNat) :
    lev.valid.toNat = 2 ^ lev.numBands.toNat - 1 ↔ ∀ b < lev.numBands.toNat, validBit lev b = true := by
  have hbit (b : Nat) : validBit lev b = lev.valid.toNat.testBit b := rfl
  constructor
  · intro hfull b hb
    rw [hbit, hfull, Nat.testBit_two_pow_sub_one, decide_eq_true hb]
  · intro hall
    refine Nat.eq_of_testBit_eq fun b => ?_
    rw [Nat.testBit_two_pow_sub_one]
    by_cases hb : b < lev.numBands.toNat
    · rw [decide_eq_true hb, ← hbit, hall b hb]
    · rw [decide_eq_false hb]
      exact Nat.testBit_lt_two_pow (h.trans_le (Nat.pow_le_pow_right (by decide) (Nat.le_of_not_lt hb)))

/-- AllBandsValid on a legal level (`43_level.md` R165, R170). -/
theorem allValid_iff (h : levelLegal s lev) :
    allValid lev = true ↔ lev.init = true ∧ ∀ b < lev.numBands.toNat, validBit lev b = true := by
  rw [allValid, Bool.and_eq_true, decide_eq_true_eq]
  exact and_congr_right fun hi => valid_full_iff ((levelLegal_iff_inUse hi).mp h).valid

theorem levelIsValid_ready (h : bandReady s lv b) :
    levelIsValid lv b s = .ok (validBit (levelAt s lv.c.toNat lv.l.toNat) b) s :=
  op_bind_of_ok (fetchBandLevel_ready h)

theorem levelAllValid_legal (hc : lv.c.toNat ≤ 3) (hl : lv.l.toNat ≤ 2) :
    levelAllValid lv s = .ok (allValid (levelAt s lv.c.toNat lv.l.toNat)) s :=
  op_bind_of_ok (fetchLevel_legal hc hl)

/-! ## The bands -/

/-- The plane of a declared band is legal: PL.CREATE made it over the whole of its buffer. -/
theorem LevelInUse.band_planeLegal (h : LevelInUse s lev) (hb : b < lev.numBands.toNat) :
    planeLegal s (bandAt lev b).plane := by
  obtain ⟨-, hp, hlen⟩ := h.declared b hb
  have hw := h.width
  have hh := h.height
  have hmul : lev.height.toNat * lev.width.toNat = (lev.height.toNat - 1) * lev.width.toNat + lev.width.toNat := by
    rw [← Nat.succ_mul, Nat.succ_eq_add_one, Nat.sub_add_cancel (by bv_omega)]
  unfold planeLegal
  rw [hlen, hp]
  refine ⟨le_rfl, by bv_omega, by bv_omega, ?_⟩
  rw [Nat.mul_comm lev.width.toNat, hmul, Nat.zero_add]

theorem LevelInUse.band_size (h : LevelInUse s lev) (hb : b < lev.numBands.toNat) :
    (bandAt lev b).plane.width = lev.width ∧ (bandAt lev b).plane.height = lev.height := by
  obtain ⟨-, hp, -⟩ := h.declared b hb
  rw [hp]
  exact ⟨rfl, rfl⟩

/-- A view of a whole plane is the plane without its ownership. -/
theorem viewOf_whole (p : Plane) : viewOf p 0 0 p.width p.height = { p with owned := false } := by
  simp [viewOf]

theorem levelBandPlane_ready (h : bandReady s lv b) (hlegal : levelLegal s (levelAt s lv.c.toNat lv.l.toNat)) :
    levelBandPlane lv b s = .ok { (bandAt (levelAt s lv.c.toNat lv.l.toNat) b).plane with owned := false } s := by
  rw [levelBandPlane, op_bind_of_ok (fetchBandLevel_ready h)]
  obtain ⟨-, -, hi, hb⟩ := h
  have huse := (levelLegal_iff_inUse hi).mp hlegal
  obtain ⟨id, buf, hlive, -⟩ := planeLegal_buffer (huse.band_planeLegal hb)
  obtain ⟨hw, hh⟩ := huse.band_size hb
  rw [planeView_live hlive, if_neg (not_or.mpr ⟨huse.width, huse.height⟩), if_neg (by simp [hw, hh]), ← hw, ← hh,
    viewOf_whole]

/-! ## LV.CLEAR -/

theorem bufFind_foldl_bufDrop_of_mem {ids : List Nat} {id : Nat} (h : id ∈ ids) (m : List (Nat × Buffer)) :
    bufFind (ids.foldl bufDrop m) id = none := by
  induction ids generalizing m with
  | nil => cases h
  | cons i ids ih =>
    rw [List.foldl_cons]
    by_cases hids : id ∈ ids
    · exact ih hids _
    · obtain rfl := (List.mem_cons.mp h).resolve_right hids
      rw [bufFind_foldl_bufDrop hids, bufFind_bufDrop_same]

/-- BUF after the declared bands of a level are dropped, if it is initialized (`43_level.md` R167). -/
def clearedBufs (m : List (Nat × Buffer)) (lev : Level) : List (Nat × Buffer) :=
  if lev.init then (levelBufs lev).foldl bufDrop m else m

theorem bufFind_clearedBufs (m : List (Nat × Buffer)) (lev : Level) (id : Nat) :
    bufFind (clearedBufs m lev) id = if lev.init = true ∧ id ∈ levelBufs lev then none else bufFind m id := by
  unfold clearedBufs
  by_cases hi : lev.init = true
  · by_cases hid : id ∈ levelBufs lev
    · rw [if_pos hi, if_pos ⟨hi, hid⟩, bufFind_foldl_bufDrop_of_mem hid]
    · rw [if_pos hi, if_neg fun hn => hid hn.2, bufFind_foldl_bufDrop hid]
  · rw [if_neg hi, if_neg fun hn => hi hn.1]

theorem levelClear_eq (hc : lv.c.toNat ≤ 3) (hl : lv.l.toNat ≤ 2) :
    levelClear lv s = .ok () (setLevel lv.c.toNat lv.l.toNat Level.reset
      (setBufs (clearedBufs s.bufs (levelAt s lv.c.toNat lv.l.toNat)) s)) := by
  rw [levelClear_legal hc hl, clearedBufs]
  split <;> rfl

/-! ## LV.INIT -/

/-- A new array of zeros under one id: every other coefficient reads as before. -/
theorem coefAt_putZeros (id len : Nat) (s : State) (id' e : Nat) :
    coefAt (setBufs (bufPut s.bufs id ⟨len, []⟩) s) id' e =
      if id' = id then if e < len then some 0 else none else coefAt s id' e := by
  by_cases h : id' = id
  · subst h
    simp [coefAt]
  · simp [coefAt, h, bufFind_bufPut_ne _ _ _ _ h]

/-- The state of LV.INIT, started in `s` on level (c, l), after `k` of `n` bands are made. -/
structure BandsMade (s : State) (c l : Nat) (w h : U16) (n k : Nat) (u : State) : Prop where
  rest : u = { s with ct := u.ct, bufs := u.bufs, nextBuf := s.nextBuf + k }
  fields : ∃ band, levelAt u c l =
    { levelAt s c l with width := w, height := h, stride := w, numBands := BitVec.ofNat 3 n, band := band }
  band : ∀ b < 4, bandAt (levelAt u c l) b = if b < k then ⟨freshPlane s w h b, 0⟩ else bandAt (levelAt s c l) b
  coef : ∀ id e, coefAt u id e =
    if s.nextBuf ≤ id ∧ id < s.nextBuf + k then if e < w.toNat * h.toNat then some 0 else none else coefAt s id e
  other : ∀ c' l', c' ≠ c ∨ l' ≠ l → levelAt u c' l' = levelAt s c' l'
  prescale : ∀ c' l', prescaleAt u c' l' = prescaleAt s c' l'

section
variable {w h : U16} {n k : Nat}

theorem BandsMade.start (hc : c < 4) (hl : l < 3) :
    BandsMade s c l w h n 0 (setLevel c l
      { levelAt s c l with width := w, height := h, stride := w, numBands := BitVec.ofNat 3 n } s) := by
  have hlevel := levelAt_setLevel_same hc hl
    { levelAt s c l with width := w, height := h, stride := w, numBands := BitVec.ofNat 3 n } s
  refine ⟨rfl, ⟨_, hlevel⟩, fun b _ => ?_, fun id e => ?_, fun c' l' hne => levelAt_setLevel_ne hne _ s,
    fun c' l' => prescaleAt_setLevel c l c' l' _ s⟩
  · rw [hlevel, if_neg (Nat.not_lt_zero b)]
    rfl
  · rw [if_neg (by omega)]
    rfl

theorem BandsMade.rest_of (hu : BandsMade s c l w h n k u)
    (ht : t = { u with ct := t.ct, bufs := t.bufs, nextBuf := u.nextBuf + 1 }) :
    t = { s with ct := t.ct, bufs := t.bufs, nextBuf := s.nextBuf + (k + 1) } :=
  ht.trans (by rw [hu.rest]; rfl)

/-- One turn of LV.INIT's loop. -/
theorem BandsMade.turn (hu : BandsMade s c l w h n k u) (hc : c < 4) (hl : l < 3) (hk : k < 4) (hw : w ≠ 0)
    (hh : h ≠ 0) :
    ∃ t, (do
        let p ← planeCreate w h
        modify fun s => setLevel c l (setBand k ⟨p, 0⟩ (levelAt s c l)) s : Op Unit) u = .ok () t ∧
      BandsMade s c l w h n (k + 1) t := by
  have hnext : u.nextBuf = s.nextBuf + k := by rw [hu.rest]
  have hepoch : u.epoch = s.epoch := by rw [hu.rest]
  have hp : (⟨some u.nextBuf, 0, w, h, w, true, u.epoch⟩ : Plane) = freshPlane s w h k := by
    rw [freshPlane, hnext, hepoch]
  have hcreate := planeCreate_legal hw hh u
  rw [hp] at hcreate
  refine ⟨_, op_bind_of_ok hcreate, ?_⟩
  set v := setNextBuf (u.nextBuf + 1) (setBufs (bufPut u.bufs u.nextBuf ⟨w.toNat * h.toNat, []⟩) u)
  have hlevel := levelAt_setLevel_same hc hl (setBand k ⟨freshPlane s w h k, 0⟩ (levelAt u c l)) v
  refine ⟨?_, ?_, fun b hb => ?_, fun id e => ?_,
    fun c' l' hne => (levelAt_setLevel_ne hne _ v).trans (hu.other c' l' hne),
    fun c' l' => (prescaleAt_setLevel c l c' l' _ v).trans (hu.prescale c' l')⟩
  · exact hu.rest_of rfl
  · obtain ⟨band, hband⟩ := hu.fields
    exact ⟨_, hlevel.trans (by rw [hband, setBand])⟩
  · refine (congrArg (bandAt · b) hlevel).trans ?_
    rw [bandAt_setBand, hu.band b hb]
    by_cases hbk : b = k
    · rw [if_pos ⟨hbk, hk⟩, if_pos (by omega), hbk]
    · rw [if_neg fun hn => hbk hn.1]
      exact if_congr (by omega) rfl rfl
  · refine (coefAt_putZeros u.nextBuf _ u id e).trans ?_
    rw [hnext, hu.coef]
    by_cases hid : id = s.nextBuf + k
    · rw [if_pos hid, if_pos (show s.nextBuf ≤ id ∧ id < s.nextBuf + (k + 1) by omega)]
    · rw [if_neg hid]
      exact if_congr (by omega) rfl rfl

/-- LV.INIT past its checks: the bands are made, then the level is marked initialized with no band valid. -/
theorem levelInit_legal (hc : lv.c.toNat ≤ 3) (hl : lv.l.toNat ≤ 2)
    (hi : (levelAt s lv.c.toNat lv.l.toNat).init = false) (hn : 1 ≤ n ∧ n ≤ 4) (hw : w ≠ 0) (hh : h ≠ 0) :
    ∃ u, BandsMade s lv.c.toNat lv.l.toNat w h n n u ∧
      levelInit lv w h n s = .ok () (setLevel lv.c.toNat lv.l.toNat
        { levelAt u lv.c.toNat lv.l.toNat with valid := 0, init := true } u) := by
  have hc4 := Nat.lt_succ_of_le hc
  have hl3 := Nat.lt_succ_of_le hl
  obtain ⟨u, hloop, hu⟩ := forFrom_ok (start := 0) (n := n) (BandsMade s lv.c.toNat lv.l.toNat w h n)
    (fun k v hk hv => by
      rw [Nat.zero_add]
      exact hv.turn hc4 hl3 (by omega) hw hh) (.start hc4 hl3)
  refine ⟨u, hu, ?_⟩
  rw [levelInit, op_bind_of_ok (fetchLevel_legal hc hl), op_bind_of_ok (failIf_neg (by simp [hi]) _ _ s),
    op_bind_of_ok (failIf_neg (by omega) _ _ s), op_bind_of_ok (failIf_neg (not_or.mpr ⟨hw, hh⟩) _ _ s), storeLevel,
    op_bind_of_ok (op_modify _ _), op_bind_of_ok hloop, op_modify]

end

end Sys2Proof.Machine
end

section
/-! SUPPORT. The mask is monotonic (`43_level.md` R181): what each operation on levels does to a bit that is set. -/

namespace Sys2Proof.Machine

variable {W : List Piece} {s t : State} {b c l : Nat}

/-! ## A bit that is set -/

/-- Level (c, l) is initialized and bit `b` of its mask is set. -/
def MaskSet (c l b : Nat) (s : State) : Prop :=
  (levelAt s c l).init = true ∧ validBit (levelAt s c l) b = true

theorem MaskSet.of_level_eq (hs : MaskSet c l b s) (h : levelAt t c l = levelAt s c l) : MaskSet c l b t := by
  unfold MaskSet
  rwa [h]

theorem Within.keeps_mask {α : Type} {op : Op α} (h : Within W op) (hl : .level ∉ W) : Keeps (MaskSet c l b) op :=
  h.keeps fun _ _ hf hs => hs.of_level_eq (hf.level hl c l)

section
variable (hc : c < 4) (hl : l < 3)
include hc hl

/-- A level rewritten with its INIT flag and the bits of its mask kept. -/
theorem MaskSet.setLevel (hs : MaskSet c l b s) {c' l' : Nat} {lev : Level}
    (hi : lev.init = (levelAt s c' l').init) (hv : validBit (levelAt s c' l') b = true → validBit lev b = true) :
    MaskSet c l b (setLevel c' l' lev s) := by
  by_cases h : c = c' ∧ l = l'
  · obtain ⟨rfl, rfl⟩ := h
    unfold MaskSet
    rw [levelAt_setLevel_same hc hl]
    exact ⟨hi.trans hs.1, hv hs.2⟩
  · exact hs.of_level_eq (levelAt_setLevel_ne (by omega) _ s)

theorem keeps_mask_levelSetValid (hb : b < 4) (lv : LevelRef) (b' : Nat) :
    Keeps (MaskSet c l b) (levelSetValid lv b') := by
  have hfetched : Keeps (MaskSet c l b) (fetchBandLevel lv b') :=
    (within_fetchBandLevel (W := []) lv b').keeps_mask List.not_mem_nil
  refine keeps_bind_then hfetched fun s lev u _ hfetch hu => ?_
  obtain ⟨-, -, rfl, -, -, rfl⟩ := fetchBandLevel_ok hfetch
  refine hu.setLevel hc hl rfl fun hset => ?_
  rw [validBit_setValidBit _ _ hb, hset, Bool.true_or]

end

theorem MaskSet.setLevel_ne (hs : MaskSet c l b s) {c' l' : Nat} (h : ¬(c' = c ∧ l' = l)) (lev : Level) :
    MaskSet c l b (Machine.setLevel c' l' lev s) := hs.of_level_eq (levelAt_setLevel_ne (by omega) lev s)

theorem MaskSet.takeError (hs : MaskSet c l b s) (e : Cause) (info : Nat) : MaskSet c l b (takeError e info s) :=
  hs.of_level_eq (((Frame.refl (W := []) s).takeError e info).level List.not_mem_nil c l)

/-- LV.INIT refuses an initialized level, so the level it rewrites is another one. -/
theorem keeps_mask_levelInit (lv : LevelRef) (w h : U16) (n : Nat) : Keeps (MaskSet c l b) (levelInit lv w h n) := by
  have hread {α : Type} {op : Op α} (h : Within [] op) : Keeps (MaskSet c l b) op := h.keeps_mask List.not_mem_nil
  refine keeps_bind_then (hread (within_fetchLevel lv)) fun s lev u _ hfetch hu => ?_
  obtain ⟨-, -, rfl, rfl⟩ := fetchLevel_ok hfetch
  by_cases hsame : lv.c.toNat = c ∧ lv.l.toNat = l
  · obtain ⟨rfl, rfl⟩ := hsame
    rw [op_bind_of_error (failIf_pos hu.1 _ _ u)]
    exact hu.takeError _ _
  · have hcreate : Keeps (MaskSet c l b) (planeCreate w h) :=
      (within_planeCreate (W := [.create]) List.mem_cons_self w h).keeps_mask (by simp)
    have hstore (f : State → Level) : Keeps (MaskSet c l b)
        (modify fun s => Machine.setLevel lv.c.toNat lv.l.toNat (f s) s : Op PUnit) :=
      keeps_modify fun s hs => hs.setLevel_ne hsame (f s)
    refine keeps_bind (hread (within_failIf ((levelAt u lv.c.toNat lv.l.toNat).init = true) _ _)) (fun _ =>
      keeps_bind (hread (within_failIf (n < 1 ∨ n > 4) _ _)) fun _ =>
        keeps_bind (hread (within_failIf (w = 0 ∨ h = 0) _ _)) fun _ => keeps_bind (hstore fun _ => _) fun _ =>
          keeps_bind (keeps_forFrom (fun _ => keeps_bind hcreate fun _ => hstore _) _ _) fun _ => hstore _) u hu

theorem keeps_mask_levelClear {lv : LevelRef} (h : ¬(lv.c.toNat = c ∧ lv.l.toNat = l)) :
    Keeps (MaskSet c l b) (levelClear lv) := by
  refine keeps_bind ((within_fetchLevel (W := []) lv).keeps_mask List.not_mem_nil) fun lev => keeps_bind ?_ fun _ =>
    keeps_modify fun s hs => hs.setLevel_ne h _
  unfold dropBands
  split
  · exact keeps_modify fun s hs => hs.of_level_eq rfl
  · exact keeps_pure _

/-! ## What DECODE keeps, by its level operations -/

/-- What BAND.FILL and DECODE write apart from levels. -/
def besidesLevels : List Piece := [.pos, .seq, .hdr, .logt, .element, .dest, .offsets, .sess]

section
variable {I : State → Prop} (hframe : ∀ s t, Frame besidesLevels s t → I s → I t)
  (hvalid : ∀ lv b, Keeps I (levelSetValid lv b))
include hframe hvalid

theorem keeps_fillBand_of (lv : LevelRef) (b : Nat) : Keeps I (fillBand lv b) :=
  keeps_bind ((within_levelBandPlane lv b).keeps hframe) fun _ =>
    keeps_bind (((within_fillFrom_noLevel _ _ _ _).mono (by simp [tokenPieces, besidesLevels])).keeps hframe) fun _ =>
      hvalid lv b

variable (hinit : ∀ lv w h n, Keeps I (levelInit lv w h n))
  (hquant : ∀ c l b q s, I s → I (setLevel c l (setBand b ⟨(bandAt (levelAt s c l) b).plane, q⟩ (levelAt s c l)) s))
include hinit hquant

theorem keeps_decodeLevel_of (c numLevels l : Nat) : Keeps I (decodeLevel c numLevels l) := by
  have hseq (phase : Phase) (c l b : Nat) : Keeps I (moveSeq phase c l b) :=
    (within_moveSeq (by simp [besidesLevels]) phase c l b).keeps hframe
  have hband (lv : LevelRef) (b : Nat) : Keeps I (levelBandPlane lv b) := (within_levelBandPlane lv b).keeps hframe
  have hensure (c l w h : Nat) : Keeps I (ensureLevel c l w h) := by
    refine keeps_bind keeps_get fun s => ?_
    split
    · exact keeps_pure _
    · exact hinit _ _ _ _
  have hfill (b : Nat) : Keeps I (fillCodedBand c l numLevels b) :=
    keeps_bind (hseq _ _ _ _) fun _ => keeps_bind (keeps_modify fun s => hquant c l b _ s) fun _ =>
      keeps_fillBand_of hframe hvalid _ b
  have hdequant (b : Nat) : Keeps I (dequantBand c l b) :=
    keeps_bind (hband _ _) fun _ => keeps_bind (hseq _ _ _ _) fun _ => keeps_bind keeps_get fun _ =>
      (within_levelDequant (by simp [besidesLevels]) _ _ _).keeps hframe
  have hrecon (lv : LevelRef) (dest : Sink) (prescale : BitVec 4) (clamp : Bool) :
      Keeps I (levelRecon lv dest prescale clamp) :=
    (within_levelRecon (by simp [besidesLevels]) (by simp [besidesLevels]) lv dest prescale clamp).keeps hframe
  refine keeps_bind keeps_get fun s => keeps_bind (hensure _ _ _ _) fun _ =>
    keeps_bind (keeps_forFrom hfill _ _) fun _ => keeps_bind (keeps_forFrom hdequant _ _) fun _ => ?_
  by_cases hl : l = 0
  · simp only [if_pos hl]
    exact keeps_bind (hseq _ _ _ _) fun _ => hrecon _ _ _ _
  · simp only [if_neg hl]
    exact keeps_bind (hensure _ _ _ _) fun _ => keeps_bind (hband _ _) fun _ => keeps_bind (hseq _ _ _ _) fun _ =>
      keeps_bind (hrecon _ _ _ _) fun _ => hvalid _ _

/-- DECODE keeps what LV.INIT, LV.SETVALID, a band's new quantization value and every write apart from levels keep. -/
theorem keeps_decodeImage_of (x y : U16) : Keeps I (decodeImage x y) := by
  have hlevels (c numLevels k : Nat) : Keeps I (decodeLevels c numLevels k) := by
    induction k with
    | zero => exact keeps_pure _
    | succ k ih => exact keeps_bind (keeps_decodeLevel_of hframe hvalid hinit hquant c numLevels k) fun _ => ih
  have hparse : Within besidesLevels (parseHeader readField) :=
    within_parseHeader (by simp [besidesLevels]) fun _ => within_bitRead (by simp [besidesLevels]) _
  have hwrite {f : State → State} (h : ∀ s, Path besidesLevels s (f s)) : Keeps I (modify f : Op PUnit) :=
    (within_modify h).keeps hframe
  have hbody : Keeps I imageBody :=
    keeps_bind (hparse.keeps hframe) fun _ => keeps_bind (within_checkDestRegion.keeps hframe) fun _ =>
      keeps_bind keeps_get fun _ =>
        keeps_bind (keeps_forFrom (fun c => keeps_bind keeps_get fun _ => hlevels c _ _) _ _) fun _ =>
          (within_moveSeq (by simp [besidesLevels]) _ _ _ _).keeps hframe
  rw [decodeImage_eq]
  exact keeps_bind keeps_get fun s => keeps_bind ((within_failIf (s.sess ≠ .ready) _ _).keeps hframe) fun _ =>
    keeps_bind (hwrite fun s => (((Write.sess s .running).path (by simp [besidesLevels])).trans
      ((Write.offsets _ x y).path (by simp [besidesLevels]))).trans ((Write.seq _ _).path (by simp [besidesLevels])))
      fun _ => keeps_bind hbody fun _ => hwrite fun s => (Write.sess s _).path (by simp [besidesLevels])

end

/-- Every instruction but RESET and LV.CLEAR of the level keeps a bit of the mask set. -/
theorem exec_mask {i : Instr} (hc : c < 4) (hl : l < 3) (hb : b < 4) (hreset : i ≠ .reset)
    (hclear : ∀ lv, i = .lvClear lv → ¬(lv.c.toNat = c ∧ lv.l.toNat = l)) (hs : MaskSet c l b s)
    (h : exec i s = .next t) : MaskSet c l b t := by
  have hframe (s t : State) (hf : Frame besidesLevels s t) (hs : MaskSet c l b s) : MaskSet c l b t :=
    hs.of_level_eq (hf.level (by simp [besidesLevels]) c l)
  have hvalid := keeps_mask_levelSetValid hc hl hb
  have hfinish {op : Op Unit} (hop : Keeps (MaskSet c l b) op) (ho : finishUnit op s = .next t) : MaskSet c l b t :=
    finish_keeps (keeps_bind hop fun _ => keeps_pure _) (fun _ _ hs => hs.of_level_eq rfl) hs ho
  rcases exec_cases h with ⟨hr, -⟩ | ⟨input, dest, -, -, -, rfl⟩ | hreach
  · exact absurd hr hreset
  · exact hs.of_level_eq rfl
  · cases i with
    | decode x y =>
      exact hfinish (keeps_decodeImage_of hframe hvalid keeps_mask_levelInit
        (fun c' l' b' q s hs => hs.setLevel hc hl rfl id) x y) h
    | lvInit lv w ht n => exact hfinish (keeps_mask_levelInit lv w ht n) h
    | lvClear lv => exact hfinish (keeps_mask_levelClear (hclear lv rfl)) h
    | lvSetValid lv b' => exact hfinish (hvalid lv _) h
    | bandFill lv b' => exact hfinish (keeps_fillBand_of hframe hvalid lv _) h
    | _ => exact hs.of_level_eq (hreach.frame.level (by simp [writes]) c l)

end Sys2Proof.Machine
end

section
/-! SUPPORT. The kernel and the synthesis (`43_level.md` R176 to R178): what the line synthesis and the two passes give,
point by point, and that they undo the forward fixture. -/

namespace Sys2Proof.Machine

variable {s : State} {lev : Level}

/-! ## One line -/

/-- Two values for each index of a range are a range twice as long. -/
theorem flatMap_range_pairs {α : Type} (f : Nat → α) (n : Nat) :
    (List.range n).flatMap (fun i => [f (2 * i), f (2 * i + 1)]) = (List.range (2 * n)).map f := by
  induction n with
  | zero => rfl
  | succ n ih =>
    rw [List.range_succ, List.flatMap_append, ih, Nat.mul_add_one, List.range_succ, List.range_succ]
    simp

theorem getD_map_range {α : Type} {d : α} (f : Nat → α) {i n : Nat} (hi : i < n) :
    ((List.range n).map f).getD i d = f i := by simp [hi]

/-- The line synthesis is kernel K0 at every index of a line twice as long. -/
theorem synth1D_eq_map (low high : List Int) :
    synth1D low high =
      (List.range (2 * low.length)).map (kernelAt (low.getD · 0) (high.getD · 0) low.length) := by
  rw [synth1D, ← flatMap_range_pairs]
  refine List.flatMap_congr fun i _ => ?_
  have heven : 2 * i / 2 = i := Nat.mul_div_cancel_left i (by decide)
  have hodd : (2 * i + 1) / 2 = i := by omega
  simp [synthPair, kernelAt, heven, hodd]

/-- Kernel K0 looks at no value outside its two lines. -/
theorem kernelAt_congr {low low' high high' : Nat → Int} {n j : Nat} (hlow : ∀ i < n, low i = low' i)
    (hhigh : ∀ i < n, high i = high' i) (hj : j < 2 * n) : kernelAt low high n j = kernelAt low' high' n j := by
  have hi : j / 2 < n := by omega
  simp only [kernelAt, hlow _ hi, hhigh _ hi, hlow (j / 2 - 1) (by omega), hlow (min (j / 2 + 1) (n - 1)) (by omega)]

/-- Lines given by functions of the index. -/
theorem synth1D_map_range (low high : Nat → Int) (n : Nat) :
    synth1D ((List.range n).map low) ((List.range n).map high) = (List.range (2 * n)).map (kernelAt low high n) := by
  have hget (f : Nat → Int) (i : Nat) : i < n → ((List.range n).map f).getD i 0 = f i := getD_map_range f
  rw [synth1D_eq_map, List.length_map, List.length_range]
  exact List.map_congr_left fun j hj => kernelAt_congr (hget low) (hget high) (List.mem_range.mp hj)

/-- Zero detail with constant lowpass gives the constant (`43_level.md` R182). -/
theorem kernelAt_const {low high : Nat → Int} {k : Int} (hlow : ∀ i, low i = k) (hhigh : ∀ i, high i = 0) (n j : Nat) :
    kernelAt low high n j = k := by
  simp [kernelAt, hlow, hhigh, asr]

/-- The kernel undoes the forward fixture: the detail it adds back is the one the fixture took off, and the odd value
comes back with it. -/
theorem kernelAt_fwd (x : Nat → Int) (n j : Nat) : kernelAt (fwdLow x) (fwdHigh x n) n j = x j := by
  have hd : fwdHigh x n (j / 2) + asr (fwdLow x (j / 2 - 1) - fwdLow x (min (j / 2 + 1) (n - 1)) + 4) 3 =
      x (2 * (j / 2)) - x (2 * (j / 2) + 1) := by
    rw [fwdHigh, asr]
    omega
  have hodd : fwdLow x (j / 2) - asr (x (2 * (j / 2)) - x (2 * (j / 2) + 1)) 1 = x (2 * (j / 2) + 1) := by
    rw [fwdLow, asr]
    omega
  simp only [kernelAt, hd, hodd]
  split
  next h => rw [show 2 * (j / 2) + 1 = j by omega]
  next h => rw [show 2 * (j / 2) = j by omega]; omega

/-! ## Both passes -/

theorem synthAt_congr {B B' : Nat → Nat → Nat → Int} {w h X Y : Nat}
    (hB : ∀ k < 4, ∀ x < w, ∀ y < h, B k x y = B' k x y) (hX : X < 2 * w) (hY : Y < 2 * h) :
    synthAt B w h X Y = synthAt B' w h X Y :=
  kernelAt_congr
    (fun y hy => kernelAt_congr (fun x hx => hB 0 (by decide) x hx y hy) (fun x hx => hB 1 (by decide) x hx y hy) hX)
    (fun y hy => kernelAt_congr (fun x hx => hB 2 (by decide) x hx y hy) (fun x hx => hB 3 (by decide) x hx y hy) hX) hY

/-- The synthesis undoes the forward transform: the horizontal pass gives the columns' two halves, the vertical pass
the image (`95_test_vectors.md` section 4). -/
theorem synthAt_fwdBand (img : Nat → Nat → Int) (w h X Y : Nat) : synthAt (fwdBand img w h) w h X Y = img X Y := by
  have hlow (y : Nat) : kernelAt (fwdBand img w h 0 · y) (fwdBand img w h 1 · y) w X = fwdLow (img X) y :=
    kernelAt_fwd (fun X => fwdLow (img X) y) w X
  have hhigh (y : Nat) : kernelAt (fwdBand img w h 2 · y) (fwdBand img w h 3 · y) w X = fwdHigh (img X) h y :=
    kernelAt_fwd (fun X => fwdHigh (img X) h y) w X
  simp only [synthAt, hlow, hhigh]
  exact kernelAt_fwd (img X) h Y

/-- The vertical pass over the horizontal pass of the bands `B` is the synthesis at every point. -/
theorem columnPass_eq_map (B : Nat → Nat → Nat → Int) (w h : Nat) :
    columnPass ((List.range h).map fun y =>
        (synth1D ((List.range w).map (B 0 · y)) ((List.range w).map (B 1 · y)),
          synth1D ((List.range w).map (B 2 · y)) ((List.range w).map (B 3 · y)))) (2 * w) (2 * h) =
      (List.range (2 * h)).map fun Y => (List.range (2 * w)).map fun X => synthAt B w h X Y := by
  simp only [columnPass, synth1D_map_range, List.map_map, Function.comp_def]
  refine List.map_congr_left fun Y hY => List.map_congr_left fun X hX => ?_
  simp only [getD_map_range _ (List.mem_range.mp hY), getD_map_range _ (List.mem_range.mp hX)]
  rfl

/-! ## The bands of a level -/

theorem bandFetch_inUse (h : LevelInUse s lev) {k x y : Nat} (hx : x < lev.width.toNat) (hy : y < lev.height.toNat) :
    bandFetch lev k x y s = .ok (bandValue s lev k x y) s := by
  rw [bandFetch, bandValue]
  by_cases hk : k < lev.numBands.toNat
  · have hp := h.band_planeLegal hk
    obtain ⟨hw, hh⟩ := h.band_size hk
    rw [← hw] at hx
    rw [← hh] at hy
    obtain ⟨v, hv, hread⟩ := planeRead_inside (planeLegal_not_dangling hp) hx hy (planeLegal_addr_lt hp hx hy)
    rw [if_pos hk, if_pos hk, op_bind_of_ok hread, hv]
    rfl
  · rw [if_neg hk, if_neg hk]
    rfl

theorem bandLine_inUse (h : LevelInUse s lev) (k : Nat) {y : Nat} (hy : y < lev.height.toNat) :
    bandLine lev k y s = .ok ((List.range lev.width.toNat).map (bandValue s lev k · y)) s := by
  rw [bandLine, List.range_eq_range']
  exact mapFrom_reads fun x hx => by
    rw [Nat.zero_add]
    exact bandFetch_inUse h hx hy

/-- The rows `S[Y]` of the synthesis of a level (`43_level.md` R178). -/
def synthRows (s : State) (lev : Level) : List (List Int) :=
  (List.range (2 * lev.height.toNat)).map fun Y => (List.range (2 * lev.width.toNat)).map fun X =>
    synthAt (bandValue s lev) lev.width.toNat lev.height.toNat X Y

/-- The synthesis of a level in use answers and changes nothing. -/
theorem synth2D_inUse (h : LevelInUse s lev) : synth2D lev s = .ok (synthRows s lev) s := by
  rw [synthRows, ← columnPass_eq_map, List.range_eq_range' (n := lev.height.toNat), synth2D]
  refine op_bind_of_ok (mapFrom_reads fun y hy => ?_)
  rw [Nat.zero_add, rowPair, op_bind_of_ok (bandLine_inUse h 0 hy), op_bind_of_ok (bandLine_inUse h 1 hy),
    op_bind_of_ok (bandLine_inUse h 2 hy), op_bind_of_ok (bandLine_inUse h 3 hy)]
  rfl

/-- The value LV.RECON posts at (X, Y), read out of the rows of the synthesis (`43_level.md` R174, R179). -/
theorem postValue_synthRows (prescale : BitVec 4) (clamp : Bool) {X Y : Nat} (hX : X < 2 * lev.width.toNat)
    (hY : Y < 2 * lev.height.toNat) :
    postValue s.hdr.bitsPerComponent.toNat (((synthRows s lev).getD Y []).getD X 0) prescale.toNat clamp =
      reconValue s lev prescale clamp X Y := by
  rw [synthRows, getD_map_range _ hY, getD_map_range _ hX]
  rfl

end Sys2Proof.Machine
end

section
/-! SUPPORT. LV.DEQUANT and LV.RECON (`43_level.md` R171 to R180): each is its checks and then one loop of writes in
row-major order, and what such a loop leaves at one address. -/

namespace Sys2Proof.Machine

variable {s t u : State} {p : Plane} {lv : LevelRef} {lev : Level}

/-! ## What a loop of writes leaves at one address -/

section
variable {β ν : Type} {P : β → Prop} [DecidablePred P] {f : β → ν} {l : List β}

/-- No write at the address: the value stays. -/
theorem foldl_ite_of_forall_not (h : ∀ a ∈ l, ¬P a) (v : ν) : l.foldl (fun v a => if P a then f a else v) v = v :=
  List.foldlRecOn (motive := (· = v)) l _ rfl fun v' hv a ha => by rw [if_neg (h a ha), hv]

/-- A write at the address, and no other value written there: it is the value written. -/
theorem foldl_ite_of_mem {b : β} (hb : b ∈ l) (hP : P b) (h : ∀ a ∈ l, P a → f a = f b) (v : ν) :
    l.foldl (fun v a => if P a then f a else v) v = f b := by
  obtain ⟨before, after, rfl⟩ := List.append_of_mem hb
  rw [List.foldl_append, List.foldl_cons, if_pos hP]
  refine List.foldlRecOn (motive := (· = f b)) after _ rfl fun v' hv a ha => ?_
  split
  next hPa => exact h a (by simp [ha]) hPa
  next => exact hv

end

theorem nodup_rowMajor (w h : Nat) : (rowMajor w h).Nodup := by
  refine List.nodup_flatMap.mpr ⟨fun y _ => List.nodup_range.map fun x x' hx => (Prod.mk.inj hx).1, ?_⟩
  refine List.nodup_range.pairwise_of_forall_ne fun y _ y' _ hne xy hxy hxy' => hne ?_
  obtain ⟨x, -, rfl⟩ := List.mem_map.mp hxy
  obtain ⟨x', -, hx'⟩ := List.mem_map.mp hxy'
  exact (Prod.mk.inj hx').2.symm

/-! ## LV.DEQUANT -/

section
variable {out inp : Plane} {ido idi : Nat} {q : U16}

/-- LV.DEQUANT on planes all of whose elements are inside their buffers: the loop's turns are those of R171, one after
the other, whatever storage the planes share. -/
theorem levelDequant_inside (q : U16) (hwf : storageWf s) (ho : planeLegal s out) (hi : planeLegal s inp)
    (hw : out.width = inp.width) (hh : out.height = inp.height) (hbo : out.buf = some ido) (hbi : inp.buf = some idi) :
    ∃ t, levelDequant out inp q s = .ok () t ∧ OnlyPlane out s t ∧
      coefMap t = (rowMajor inp.width.toNat inp.height.toNat).foldl
        (fun m xy => dequantTurn q m idi (planeAddr inp xy.1 xy.2) ido (planeAddr out xy.1 xy.2)) (coefMap s) := by
  have hdo := planeLegal_not_dangling ho
  have hdi := planeLegal_not_dangling hi
  rw [levelDequant_eq q hdo hdi hw hh]
  refine forM_view (J := OnlyPlane out s) (view := coefMap) (fun xy hxy v hv => ?_) ⟨.refl hwf, fun _ _ _ => rfl⟩
  obtain ⟨hx, hy⟩ := mem_rowMajor.mp hxy
  have hxo : xy.1 < out.width.toNat := hw ▸ hx
  have hyo : xy.2 < out.height.toNat := hh ▸ hy
  have hao := planeLegal_addr_lt ho hxo hyo
  have hai := planeLegal_addr_lt hi hx hy
  rw [← hv.elements.planeLen_eq] at hao hai
  obtain ⟨t, ht, helem, hframe, hcoef⟩ := dequantElement_inside q hv.elements.wf
    (mt (hv.elements.dangling_iff out).mp hdo) (mt (hv.elements.dangling_iff inp).mp hdi) hbo hbi hxo hyo hx hy hao hai
  exact ⟨t, ht, ⟨hv.elements.trans helem, fun id e he => (hframe id e he).trans (hv.outside id e he)⟩, hcoef⟩

/-- Turns that write other addresses leave the element at one address. -/
theorem foldl_dequantTurn_of_ne {β : Type} {src dst : β → Nat} {l : List β} {i k : Nat}
    (h : ∀ a ∈ l, ¬(i = ido ∧ k = dst a)) (m : Nat → Nat → Coef) :
    l.foldl (fun m a => dequantTurn q m idi (src a) ido (dst a)) m i k = m i k := by
  refine List.foldlRecOn (motive := fun m' : Nat → Nat → Coef => m' i k = m i k) l _ rfl fun m' hm a ha => ?_
  rw [dequantTurn, if_neg (h a ha), hm]

/-- Where no turn writes what another reads or writes, each element written is the old element read, dequantized. -/
theorem foldl_dequantTurn_of_mem {β : Type} {src dst : β → Nat} {l : List β} (hl : l.Nodup)
    (hdst : ∀ a ∈ l, ∀ b ∈ l, a ≠ b → dst a ≠ dst b) (hsrc : ∀ a ∈ l, ∀ b ∈ l, a ≠ b → ¬(idi = ido ∧ src b = dst a))
    {b : β} (hb : b ∈ l) (m : Nat → Nat → Coef) :
    l.foldl (fun m a => dequantTurn q m idi (src a) ido (dst a)) m ido (dst b) = dequantized q (m idi (src b)) := by
  obtain ⟨before, after, rfl⟩ := List.append_of_mem hb
  have hbefore : ∀ a ∈ before, a ≠ b := fun a ha hab =>
    List.disjoint_of_nodup_append hl ha (hab ▸ List.mem_cons_self)
  have hafter : ∀ a ∈ after, b ≠ a := fun a ha hba =>
    (List.nodup_cons.mp (List.nodup_append'.mp hl).2.1).1 (hba ▸ ha)
  rw [List.foldl_append, List.foldl_cons, foldl_dequantTurn_of_ne, dequantTurn, if_pos ⟨rfl, rfl⟩,
    foldl_dequantTurn_of_ne]
  · exact fun a ha => hsrc a (by simp [ha]) b hb (hbefore a ha)
  · exact fun a ha h => hdst b hb a (by simp [ha]) (hafter a ha) h.2

/-- Where the planes lie in different buffers or coincide, every element of `out` becomes the old one of `inp`. -/
theorem foldl_dequantTurn_apart (ho : out.width.toNat ≤ out.stride.toNat) (hi : inp.width.toNat ≤ inp.stride.toNat)
    (hw : out.width = inp.width)
    (hapart : ido ≠ idi ∨ ∀ x < inp.width.toNat, ∀ y < inp.height.toNat, planeAddr out x y = planeAddr inp x y)
    {x y : Nat} (hx : x < inp.width.toNat) (hy : y < inp.height.toNat) (m : Nat → Nat → Coef) :
    (rowMajor inp.width.toNat inp.height.toNat).foldl
        (fun m xy => dequantTurn q m idi (planeAddr inp xy.1 xy.2) ido (planeAddr out xy.1 xy.2)) m ido
        (planeAddr out x y) = dequantized q (m idi (planeAddr inp x y)) := by
  refine foldl_dequantTurn_of_mem (src := fun xy => planeAddr inp xy.1 xy.2)
    (dst := fun xy => planeAddr out xy.1 xy.2) (nodup_rowMajor _ _) (fun a ha b hb hab he => hab ?_)
    (fun a ha b hb hab he => hab ?_) (b := (x, y)) (mem_rowMajor.mpr ⟨hx, hy⟩) m
  · obtain ⟨hax, -⟩ := mem_rowMajor.mp ha
    obtain ⟨hbx, -⟩ := mem_rowMajor.mp hb
    exact Prod.ext_iff.mpr (planeAddr_inj ho (hw ▸ hax) (hw ▸ hbx) he)
  · obtain ⟨hax, hay⟩ := mem_rowMajor.mp ha
    obtain ⟨hbx, -⟩ := mem_rowMajor.mp hb
    obtain ⟨hid, he⟩ := he
    have hsame := hapart.resolve_left (fun hne => hne hid.symm) a.1 hax a.2 hay
    exact Prod.ext_iff.mpr (planeAddr_inj hi hax hbx (hsame.symm.trans he.symm))

theorem OnlyElements.planeLegal (h : OnlyElements s t) (hp : planeLegal s p) : planeLegal t p := by
  unfold Machine.planeLegal
  rwa [h.planeLen_eq]

/-- An element of a legal plane is one of the storage. -/
theorem planeLegal_planeAt {id x y : Nat} (hp : planeLegal s p) (hbuf : p.buf = some id) (hx : x < p.width.toNat)
    (hy : y < p.height.toNat) : planeAt s p x y = some (coefMap s id (planeAddr p x y)) := by
  obtain ⟨v, hv, -⟩ := planeRead_inside (planeLegal_not_dangling hp) hx hy (planeLegal_addr_lt hp hx hy)
  rw [planeAt, hbuf, Option.bind_some] at hv
  rw [planeAt, hbuf, Option.bind_some, coefMap, hv, Option.getD_some]

end

/-! ## LV.RECON: its checks and its loop -/

theorem Path.eq_of_nil (h : Path [] s t) : t = s :=
  h.keeps (I := (· = s)) (fun _ hk => absurd hk List.not_mem_nil) rfl

/-- An operation that writes nothing, where it answers. -/
theorem Within.ok_nil {α : Type} {op : Op α} (h : Within [] op) {a : α} (ho : op s = .ok a t) : t = s :=
  (h.ok ho).eq_of_nil

/-- An operation that writes nothing, where it raises. -/
theorem Within.error_nil {α : Type} {op : Op α} (h : Within [] op) {e : Stop} (ho : op s = .error e t) :
    ∃ c info, t = takeError c info s := by
  obtain ⟨u, c, info, hp, rfl⟩ := h.error ho
  exact ⟨c, info, by rw [hp.eq_of_nil]⟩

/-- A plane sink passes where it is live, has the size asked for and all its elements. -/
theorem checkSink_plane {w2 h2 : Nat} {clamp : Bool} (hd : ¬dangling s p) (hw : p.width.toNat = w2)
    (hh : p.height.toNat = h2) (ha : ∀ x y, x < p.width.toNat → y < p.height.toNat → planeAddr p x y < planeLen s p) :
    checkSink (.plane p) w2 h2 clamp s = .ok () s := by
  obtain ⟨id, b, hl⟩ := liveBuffer_of_not_dangling hd
  rw [checkSink, op_bind_of_ok (checkDescriptor_found hl), op_bind_of_ok (failIf_neg (by omega) _ _ s),
    checkElements_found hd ha]

/-- The image sink's checks in their order (`43_level.md` R180). -/
theorem checkSink_image (c : BitVec 8) (w2 h2 : Nat) (clamp : Bool) (s : State) :
    checkSink (.image c) w2 h2 clamp s =
      if clamp = false then .error .raised (takeError .sinkMode 0 s)
      else if w2 ≠ channelWidth s ∨ h2 ≠ channelHeight s then .error .raised (takeError .planeMismatch 1 s)
      else .ok () s := by
  by_cases hc : clamp = false
  · rw [if_pos hc, checkSink, op_bind_of_error (failIf_pos hc _ _ s)]
  · rw [if_neg hc, checkSink, op_bind_of_ok (failIf_neg hc _ _ s), op_bind_of_ok (op_get s), failIf_apply]

section
variable {dest : Sink} {prescale : BitVec 4} {clamp : Bool} {c : Cause} {info : Nat}
  (hc : lv.c.toNat ≤ 3) (hl : lv.l.toNat ≤ 2) (hlev : levelAt s lv.c.toNat lv.l.toNat = lev) (hv : allValid lev = true)
include hc hl hlev hv

/-- LV.RECON whose sink is refused. -/
theorem exec_lvRecon_sink_raised
    (h : checkSink dest (2 * lev.width.toNat) (2 * lev.height.toNat) clamp s =
      .error .raised (takeError c info s)) :
    exec (.lvRecon lv dest prescale clamp) s = .next (trapped c info s) := by
  subst hlev
  refine finishUnit_of_raised ?_
  rw [levelRecon, op_bind_of_ok (fetchLevel_legal hc hl), op_bind_of_ok (failIf_neg (by simp [hv]) _ _ s),
    op_bind_of_error h]

/-- LV.RECON past its checks: the synthesis, then the writes in row-major order. -/
theorem levelRecon_checked (h : checkSink dest (2 * lev.width.toNat) (2 * lev.height.toNat) clamp s = .ok () s) :
    levelRecon lv dest prescale clamp s =
      (synth2D lev >>= fun rows =>
        forM (rowMajor (2 * lev.width.toNat) (2 * lev.height.toNat)) fun XY =>
          sinkWrite dest XY.1 XY.2 (postValue s.hdr.bitsPerComponent.toNat ((rows.getD XY.2 []).getD XY.1 0)
            prescale.toNat clamp)) s := by
  subst hlev
  rw [levelRecon, op_bind_of_ok (fetchLevel_legal hc hl), op_bind_of_ok (failIf_neg (by simp [hv]) _ _ s),
    op_bind_of_ok h]
  cases hrows : synth2D (levelAt s lv.c.toNat lv.l.toNat) s with
  | error e t => rw [op_bind_of_error hrows, op_bind_of_error hrows]
  | ok rows t =>
    obtain rfl := (within_synth2D _).ok_nil hrows
    rw [op_bind_of_ok hrows, op_bind_of_ok hrows, op_bind_of_ok (op_get t),
      forFrom_forFrom_eq_forM fun X Y => sinkWrite dest X Y
        (postValue t.hdr.bitsPerComponent.toNat ((rows.getD Y []).getD X 0) prescale.toNat clamp)]

/-- LV.RECON on a legal level past its checks: what `view` shows of its end is the fold of what the writes of the
posted values do to the view. -/
theorem levelRecon_view {M : Type} {J : State → Prop} {view : State → M} {turn : M → Nat × Nat → M}
    (hlegal : levelLegal s lev) (h : checkSink dest (2 * lev.width.toNat) (2 * lev.height.toNat) clamp s = .ok () s)
    (hturn : ∀ X Y, X < 2 * lev.width.toNat → Y < 2 * lev.height.toNat → ∀ u, J u →
      ∃ t, sinkWrite dest X Y (reconValue s lev prescale clamp X Y) u = .ok () t ∧ J t ∧ view t = turn (view u) (X, Y))
    (hs : J s) :
    ∃ t, levelRecon lv dest prescale clamp s = .ok () t ∧ J t ∧
      view t = (rowMajor (2 * lev.width.toNat) (2 * lev.height.toNat)).foldl turn (view s) := by
  have huse := (levelLegal_iff_inUse (init_of_allValid hv)).mp hlegal
  rw [levelRecon_checked hc hl hlev hv h, op_bind_of_ok (synth2D_inUse huse)]
  refine forM_view (fun XY hXY u hu => ?_) hs
  obtain ⟨hX, hY⟩ := mem_rowMajor.mp hXY
  rw [postValue_synthRows prescale clamp hX hY]
  exact hturn XY.1 XY.2 hX hY u hu

/-! ## Into a plane -/

/-- LV.RECON into a legal plane of twice the level's size: the posted values, narrowed, are written element by element
over the storage as it was. -/
theorem levelRecon_plane (hwf : storageWf s) (hlegal : levelLegal s lev) (hp : planeLegal s p)
    (hw : p.width.toNat = 2 * lev.width.toNat) (hh : p.height.toNat = 2 * lev.height.toNat) :
    ∃ t, levelRecon lv (.plane p) prescale clamp s = .ok () t ∧ OnlyElements s t ∧
      ∀ id e, coefAt t id e = (rowMajor p.width.toNat p.height.toNat).foldl
        (fun v XY =>
          if p.buf = some id ∧ e = planeAddr p XY.1 XY.2 then
            some (BitVec.ofInt 16 (reconValue s lev prescale clamp XY.1 XY.2))
          else v)
        (coefAt s id e) := by
  have hd := planeLegal_not_dangling hp
  have hturn (X Y : Nat) (hX : X < 2 * lev.width.toNat) (hY : Y < 2 * lev.height.toNat) (u : State)
      (hu : OnlyElements s u) :
      ∃ t, sinkWrite (.plane p) X Y (reconValue s lev prescale clamp X Y) u = .ok () t ∧ OnlyElements s t ∧
        coefAt t = setElement (coefAt u) p X Y (some (BitVec.ofInt 16 (reconValue s lev prescale clamp X Y))) := by
    rw [← hw] at hX
    rw [← hh] at hY
    obtain ⟨t, ht, helem, hcoef⟩ := planeWrite_inside hu.wf (mt (hu.dangling_iff p).mp hd) hX hY
      (hu.planeLen_eq p ▸ planeLegal_addr_lt hp hX hY) (narrow16 _)
    exact ⟨t, ht, hu.trans helem, hcoef⟩
  obtain ⟨t, ht, helem, hcoef⟩ := levelRecon_view (turn := fun m XY => setElement m p XY.1 XY.2
      (some (BitVec.ofInt 16 (reconValue s lev prescale clamp XY.1 XY.2))))
    hc hl hlev hv hlegal (checkSink_plane hd hw hh fun _ _ => planeLegal_addr_lt hp) hturn (.refl hwf)
  refine ⟨t, ht, helem, fun id e => ?_⟩
  rw [hcoef, hw, hh]
  exact (List.foldl_hom (fun m : Nat → Nat → Option Coef => m id e) fun _ _ => rfl).symm

end

/-! ## Into the image -/

/-- `t` differs from `s` in samples only. -/
structure OnlySamples (s t : State) : Prop where
  rest : t = { s with dest := t.dest }
  wf : Cells.wf t.dest

/-- One destination write from a state that has changed in samples only. -/
theorem destWrite_turn (hu : OnlySamples s u) (c X Y : Nat) (v : Int) :
    ∃ t, destWrite c X Y v u = .ok () t ∧ OnlySamples s t ∧ cellRead t.dest = fun key =>
      if destWritable s (destX s c X) (destY s c Y) ∧
          key = destKey (boundDest s).image (destX s c X) (destY s c Y) then sampleOf v
      else cellRead u.dest key := by
  obtain ⟨hrest, hwf⟩ := hu
  have hX : destX u c X = destX s c X := by rw [hrest]; rfl
  have hY : destY u c Y = destY s c Y := by rw [hrest]; rfl
  have hdest : boundDest u = boundDest s := by rw [hrest]; rfl
  have hok : destWritable u (destX s c X) (destY s c Y) ↔ destWritable s (destX s c X) (destY s c Y) := by
    rw [hrest]
    exact .rfl
  rw [destWrite, op_modify]
  simp only [hX, hY, hdest, hok]
  by_cases h : destWritable s (destX s c X) (destY s c Y)
  · rw [if_pos h]
    refine ⟨_, rfl, ⟨by rw [hrest]; rfl, cellWrite_wf _ _ _ hwf⟩, funext fun key => ?_⟩
    by_cases hk : key = destKey (boundDest s).image (destX s c X) (destY s c Y)
    · rw [if_pos ⟨h, hk⟩, hk]
      exact cellRead_cellWrite_same _ _ _ hwf
    · rw [if_neg fun hn => hk hn.2]
      exact cellRead_cellWrite_ne _ _ _ _ hk
  · rw [if_neg h]
    exact ⟨u, rfl, ⟨hrest, hwf⟩, funext fun key => (if_neg fun hn => h hn.1).symm⟩

/-- LV.RECON into the image from a level of the channel's size: the writes of `44_channel_orchestrator.md` R203 in
row-major order, those outside the region or the image writing nothing (log 8). -/
theorem levelRecon_image {prescale : BitVec 4} (hwf : Cells.wf s.dest) (hc : lv.c.toNat ≤ 3) (hl : lv.l.toNat ≤ 2)
    (hlev : levelAt s lv.c.toNat lv.l.toNat = lev) (hv : allValid lev = true) (hlegal : levelLegal s lev)
    (hw : 2 * lev.width.toNat = channelWidth s) (hh : 2 * lev.height.toNat = channelHeight s) (c : BitVec 8) :
    ∃ t, levelRecon lv (.image c) prescale true s = .ok () t ∧ OnlySamples s t ∧
      ∀ key, cellRead t.dest key = (rowMajor (channelWidth s) (channelHeight s)).foldl
        (fun v XY =>
          if destWritable s (destX s c.toNat XY.1) (destY s c.toNat XY.2) ∧
              key = destKey (boundDest s).image (destX s c.toNat XY.1) (destY s c.toNat XY.2) then
            sampleOf (reconValue s lev prescale true XY.1 XY.2)
          else v)
        (cellRead s.dest key) := by
  have hsink : checkSink (.image c) (2 * lev.width.toNat) (2 * lev.height.toNat) true s = .ok () s := by
    rw [checkSink_image, if_neg Bool.noConfusion, if_neg (not_or.mpr ⟨not_not.mpr hw, not_not.mpr hh⟩)]
  obtain ⟨t, ht, hsamples, hcell⟩ := levelRecon_view (prescale := prescale) (view := fun u => cellRead u.dest)
    (turn := fun m XY key =>
      if destWritable s (destX s c.toNat XY.1) (destY s c.toNat XY.2) ∧
          key = destKey (boundDest s).image (destX s c.toNat XY.1) (destY s c.toNat XY.2) then
        sampleOf (reconValue s lev prescale true XY.1 XY.2)
      else m key)
    hc hl hlev hv hlegal hsink (fun X Y _ _ u hu => destWrite_turn hu c.toNat X Y _) ⟨rfl, hwf⟩
  refine ⟨t, ht, hsamples, fun key => ?_⟩
  rw [hcell, hw, hh]
  exact (List.foldl_hom (fun m : Nat → U16 => m key) fun _ _ => rfl).symm

/-- Keys of samples of one image tell the samples apart. -/
theorem destKey_inj {image x y x' y' : Nat} (hx : x < 65536) (hx' : x' < 65536)
    (h : destKey image x y = destKey image x' y') : x = x' ∧ y = y' := by
  unfold destKey at h
  omega

theorem destWritable_lt {x y : Nat} (h : destWritable s x y) : x < 65536 :=
  h.2.1.trans (boundDest s).w.isLt

/-- With a pattern that is not empty no two writes of a channel meet. -/
theorem destX_destY_inj {c X Y X' Y' : Nat} (hpw : 1 ≤ s.hdr.patternWidth.toNat) (hph : 1 ≤ s.hdr.patternHeight.toNat)
    (hx : destX s c X = destX s c X') (hy : destY s c Y = destY s c Y') : X = X' ∧ Y = Y' := by
  unfold destX at hx
  unfold destY at hy
  exact ⟨Nat.eq_of_mul_eq_mul_left hpw (by omega), Nat.eq_of_mul_eq_mul_left hph (by omega)⟩

theorem planeWidth_eq (hpw : 1 ≤ s.hdr.patternWidth.toNat) : planeWidth s.hdr = channelWidth s := by
  rw [planeWidth, channelWidth, quotient, if_neg (by omega)]

theorem planeHeight_eq (hph : 1 ≤ s.hdr.patternHeight.toNat) : planeHeight s.hdr = channelHeight s := by
  rw [planeHeight, channelHeight, quotient, if_neg (by omega)]

/-- Place `r` of a pattern of `p` in repetition `X` is inside `n`, if the repetitions are. -/
theorem mul_add_lt_of_lt_div {p r X n : Nat} (hr : r < p) (hX : X < n / p) : p * X + r < n := by
  calc p * X + r
    _ < p * (X + 1) := by rw [Nat.mul_add_one]; omega
    _ ≤ p * (n / p) := Nat.mul_le_mul_left p hX
    _ ≤ n := Nat.mul_div_le n p

/-- With the region inside the image and the channel inside the pattern every sample of the channel is writable. -/
theorem destWritable_of_fits {b : Binding} {c X Y : Nat} (hb : s.binding = some b)
    (hpw : 1 ≤ s.hdr.patternWidth.toNat) (hcell : c < s.hdr.patternWidth.toNat * s.hdr.patternHeight.toNat)
    (hw : s.offx.toNat + s.hdr.imageWidth.toNat ≤ b.dest.w.toNat)
    (hh : s.offy.toNat + s.hdr.imageHeight.toNat ≤ b.dest.h.toNat) (hX : X < planeWidth s.hdr)
    (hY : Y < planeHeight s.hdr) : destWritable s (destX s c X) (destY s c Y) := by
  have hx := mul_add_lt_of_lt_div (Nat.mod_lt c hpw) hX
  have hy := mul_add_lt_of_lt_div (Nat.div_lt_of_lt_mul hcell) hY
  have hdest : boundDest s = b.dest := by simp [boundDest, hb]
  have hpw0 : s.hdr.patternWidth.toNat ≠ 0 := by omega
  have hrow := Nat.zero_le (c / s.hdr.patternWidth.toNat)
  simp only [destWritable, inRegion, destX, destY, remainder, quotient, if_neg hpw0, hdest]
  omega

theorem reconValue_eq_postValue (s : State) (lev : Level) (prescale : BitVec 4) (clamp : Bool) (X Y : Nat) :
    reconValue s lev prescale clamp X Y = postValue s.hdr.bitsPerComponent.toNat
      (synthAt (bandValue s lev) lev.width.toNat lev.height.toNat X Y) prescale.toNat clamp := rfl

/-- A clamped value of at most 16 bits is the sample's value. -/
theorem sampleOf_reconValue (lev : Level) (prescale : BitVec 4) (X Y : Nat)
    (hbpc : s.hdr.bitsPerComponent.toNat ≤ 16) :
    sampleOf (reconValue s lev prescale true X Y) = BitVec.ofInt 16 (reconValue s lev prescale true X Y) := by
  rw [reconValue_eq_postValue]
  obtain ⟨h0, hlt⟩ := postValue_clamped s.hdr.bitsPerComponent.toNat
    (synthAt (bandValue s lev) lev.width.toNat lev.height.toNat X Y) prescale.toNat
  have hle : (2 : Int) ^ s.hdr.bitsPerComponent.toNat ≤ 2 ^ 16 := pow_le_pow_right₀ (by decide) hbpc
  exact if_pos ⟨h0, by omega⟩

/-! ## An LV.RECON that fails writes nothing -/

theorem bufLen_of_path {W : List Piece} (h : Path W s t) (hW : W ⊆ [.element, .dest]) (id : Nat) :
    bufLen t id = bufLen s id := by
  refine h.keeps (I := fun u => bufLen u id = bufLen s id) (fun k hk a b hw ha => ?_) rfl
  cases hw with
  | element _ id' e b v hb he => exact (bufLen_put_element hb _ id).trans ha
  | dest _ key v => exact ha
  | _ => simpa using hW hk

/-- Writes of elements and samples change nothing but BUF and DEST. -/
theorem rest_of_path (h : Path [.element, .dest] s t) : t = { s with bufs := t.bufs, dest := t.dest } := by
  refine h.keeps (I := fun u => u = { s with bufs := u.bufs, dest := u.dest }) (fun k hk a b hw ha => ?_) rfl
  cases hw with
  | element _ id' e b v hb he => rw [ha]; rfl
  | dest _ key v => rw [ha]; rfl
  | _ => simp at hk

/-- A sink that has passed its checks takes every write, whatever was written to it since. -/
theorem sinkWrite_answers {dest : Sink} {w2 h2 X Y : Nat} {clamp : Bool} (h : checkSink dest w2 h2 clamp s = .ok () s)
    (hX : X < w2) (hY : Y < h2) (v : Int) (hu : Path [.element, .dest] s u) :
    ∃ t, sinkWrite dest X Y v u = .ok () t := by
  cases dest with
  | plane p =>
    obtain ⟨-, hd, hw, hh, ha⟩ := checkSink_ok h
    have hlen : bufLen u = bufLen s := funext (bufLen_of_path hu (List.Subset.refl _))
    have hepoch := hu.frame.epoch
    have hdu : ¬dangling u p := by rwa [dangling_iff_bufLen, hepoch, hlen, ← dangling_iff_bufLen]
    obtain ⟨id, b, hl⟩ := liveBuffer_of_not_dangling hdu
    have hau : planeAddr p X Y < b.len := by
      rw [← planeLen_live hl, planeLen_eq, hepoch, hlen, ← planeLen_eq]
      exact ha X Y hX hY
    exact ⟨_, planeWrite_found hl (hw ▸ hX) (hh ▸ hY) hau⟩
  | image c =>
    rcases destWrite_cases c.toNat X Y v u with ⟨_, -, -, -, -, ht⟩ | ⟨-, ht⟩
    · exact ⟨_, ht⟩
    · exact ⟨_, ht⟩

/-- The loop of writes of LV.RECON past its checks answers, whatever the values. -/
theorem sinkWrites_answer {dest : Sink} {w2 h2 : Nat} {clamp : Bool} (h : checkSink dest w2 h2 clamp s = .ok () s)
    (v : Nat × Nat → Int) :
    ∃ t, (forM (rowMajor w2 h2) fun XY => sinkWrite dest XY.1 XY.2 (v XY) : Op Unit) s = .ok () t ∧
      Path [.element, .dest] s t := by
  have hturn : ∀ XY ∈ rowMajor w2 h2, ∀ u, Path [.element, .dest] s u →
      ∃ t, sinkWrite dest XY.1 XY.2 (v XY) u = .ok () t ∧ Path [.element, .dest] s t ∧ () = () := by
    intro XY hXY u hu
    obtain ⟨hX, hY⟩ := mem_rowMajor.mp hXY
    obtain ⟨t, ht⟩ := sinkWrite_answers h hX hY (v XY) hu
    exact ⟨t, ht, hu.trans ((within_sinkWrite (by simp) (by simp) _ _ _ _).ok ht), rfl⟩
  -- only whether the loop answers is asked, so there is nothing to view
  obtain ⟨t, ht, hpath, -⟩ := forM_view (view := fun _ => ()) (turn := fun _ _ => ()) hturn .refl
  exact ⟨t, ht, hpath⟩

section
variable {dest : Sink} {prescale : BitVec 4} {clamp : Bool}

theorem exec_lvRecon_levelIndex (h : 3 < lv.c.toNat ∨ 2 < lv.l.toNat) :
    exec (.lvRecon lv dest prescale clamp) s = .next (trapped .levelIndex (lv.c.toNat * 256 + lv.l.toNat) s) :=
  finishUnit_of_raised (op_bind_of_error (fetchLevel_levelIndex h))

theorem exec_lvRecon_bandsNotValid (hc : lv.c.toNat ≤ 3) (hl : lv.l.toNat ≤ 2)
    (h : allValid (levelAt s lv.c.toNat lv.l.toNat) = false) :
    exec (.lvRecon lv dest prescale clamp) s =
      .next (trapped .bandsNotValid (levelAt s lv.c.toNat lv.l.toNat).valid.toNat s) :=
  finishUnit_of_raised ((op_bind_of_ok (fetchLevel_legal hc hl)).trans (op_bind_of_error (failIf_pos h _ _ s)))

/-- In every state LV.RECON raises with nothing written, or has passed every check and writes elements and samples. -/
theorem exec_lvRecon_cases (h : exec (.lvRecon lv dest prescale clamp) s = .next t) :
    (∃ c info, t = trapped c info s) ∨
      t = { s with bufs := t.bufs, dest := t.dest, result := .none } ∧ lv.c.toNat ≤ 3 ∧ lv.l.toNat ≤ 2 ∧
        allValid (levelAt s lv.c.toNat lv.l.toNat) = true ∧
        checkSink dest (2 * (levelAt s lv.c.toNat lv.l.toNat).width.toNat)
          (2 * (levelAt s lv.c.toNat lv.l.toNat).height.toNat) clamp s = .ok () s := by
  have htrap {c : Cause} {info : Nat} (ht : exec (.lvRecon lv dest prescale clamp) s = .next (trapped c info s)) :
      ∃ c info, t = trapped c info s := ⟨c, info, Host.Outcome.next.inj (h.symm.trans ht)⟩
  by_cases hidx : 3 < lv.c.toNat ∨ 2 < lv.l.toNat
  · exact .inl (htrap (exec_lvRecon_levelIndex hidx))
  have hc : lv.c.toNat ≤ 3 := by omega
  have hl : lv.l.toNat ≤ 2 := by omega
  cases hv : allValid (levelAt s lv.c.toNat lv.l.toNat) with
  | false => exact .inl (htrap (exec_lvRecon_bandsNotValid hc hl hv))
  | true =>
    cases hsink : checkSink dest (2 * (levelAt s lv.c.toNat lv.l.toNat).width.toNat)
        (2 * (levelAt s lv.c.toNat lv.l.toNat).height.toNat) clamp s with
    | error e u =>
      obtain ⟨c, info, rfl⟩ := (within_checkSink _ _ _ _).error_nil hsink
      exact .inl (htrap (exec_lvRecon_sink_raised hc hl rfl hv hsink))
    | ok a u =>
      obtain rfl := (within_checkSink _ _ _ _).ok_nil hsink
      have hop := levelRecon_checked (prescale := prescale) hc hl rfl hv hsink
      cases hrows : synth2D (levelAt u lv.c.toNat lv.l.toNat) u with
      | error e v =>
        obtain ⟨c, info, rfl⟩ := (within_synth2D _).error_nil hrows
        exact .inl (htrap (finishUnit_of_raised (hop.trans (op_bind_of_error hrows))))
      | ok rows v =>
        obtain rfl := (within_synth2D _).ok_nil hrows
        obtain ⟨w, hw, hpath⟩ := sinkWrites_answer hsink _
        have ht := finishUnit_of_ok (hop.trans ((op_bind_of_ok hrows).trans hw))
        obtain rfl := Host.Outcome.next.inj (h.symm.trans ht)
        exact .inr ⟨by rw [rest_of_path hpath]; rfl, hc, hl, rfl, rfl⟩

end

end Sys2Proof.Machine
end

section
/-! THE STATEMENTS of `43_level.md`, settled. -/

namespace Sys2Proof.Settled

open Sys2Proof.Machine

/-- Settles O20, operation by operation: of the instructions that rewrite levels only LV.SETVALID touches a mask, and it
clears no bit; LV.INIT refuses an initialized level. -/
theorem maskMonotonic : Obligations.MaskMonotonic := by
  unfold Obligations.MaskMonotonic
  exact fun i s t c l b h hc hl hb hi hv hreset hclear => exec_mask hc hl hb hreset hclear ⟨hi, hv⟩ h

/-- Settles O44: the loop's invariant says which bands are made, under which ids, and that all else stays. -/
theorem levelInitResult : Obligations.LevelInitResult := by
  unfold Obligations.LevelInitResult
  refine ⟨fun _ => rfl, fun s lv w h n hidx => finishUnit_of_raised (op_bind_of_error (fetchLevel_levelIndex hidx)),
    fun s lv w h n hc hl hi => finishUnit_of_raised ?_, fun s lv w h n hc hl hi hn => finishUnit_of_raised ?_,
    fun s lv w h n hc hl hi hn hn4 hwh => finishUnit_of_raised ?_, fun s lv w h n hc hl hi hn hn4 hw hh => ?_⟩
  · rw [levelInit, op_bind_of_ok (fetchLevel_legal hc hl), op_bind_of_error (failIf_pos hi _ _ s)]
  · rw [levelInit, op_bind_of_ok (fetchLevel_legal hc hl), op_bind_of_ok (failIf_neg (by simp [hi]) _ _ s),
      op_bind_of_error (failIf_pos hn _ _ s)]
  · rw [levelInit, op_bind_of_ok (fetchLevel_legal hc hl), op_bind_of_ok (failIf_neg (by simp [hi]) _ _ s),
      op_bind_of_ok (failIf_neg (by omega) _ _ s), op_bind_of_error (failIf_pos hwh _ _ s)]
  · obtain ⟨u, hu, hop⟩ := levelInit_legal hc hl hi ⟨hn, hn4⟩ hw hh
    obtain ⟨band, hfields⟩ := hu.fields
    have hlevel := levelAt_setLevel_same (Nat.lt_succ_of_le hc) (Nat.lt_succ_of_le hl)
      { levelAt u lv.c.toNat lv.l.toNat with valid := 0, init := true } u
    refine ⟨_, finishUnit_of_ok hop, by rw [hu.rest]; rfl, ?_⟩
    have hnum : (BitVec.ofNat 3 n).toNat = n := (BitVec.toNat_ofNat ..).trans (Nat.mod_eq_of_lt (by omega))
    simp only [levelAt_setResult, prescaleAt_setResult, hlevel, true_and]
    refine ⟨by rw [hfields], by rw [hfields], by rw [hfields], by rw [hfields, hnum], hu.band, fun b hb e => ?_,
      fun id e hid => ?_, fun c l hne => (levelAt_setLevel_ne hne _ u).trans (hu.other c l hne),
      fun c l => (prescaleAt_setLevel _ _ c l _ u).trans (hu.prescale c l)⟩
    · exact (hu.coef _ e).trans (if_pos (by omega))
    · exact (hu.coef id e).trans (if_neg (by omega))

/-- Settles O45: the declared bands' buffers are the ids dropped. -/
theorem levelClearResult : Obligations.LevelClearResult := by
  unfold Obligations.LevelClearResult
  refine ⟨fun _ => rfl, fun s lv hidx => finishUnit_of_raised (op_bind_of_error (fetchLevel_levelIndex hidx)),
    fun s lv hc hl => ?_⟩
  refine ⟨_, finishUnit_of_ok (levelClear_eq hc hl), rfl,
    levelAt_setLevel_same (Nat.lt_succ_of_le hc) (Nat.lt_succ_of_le hl) _ _,
    fun c l hne => levelAt_setLevel_ne hne _ _, fun c l => prescaleAt_setLevel _ _ c l _ _,
    fun id => (bufFind_clearedBufs _ _ id).trans (if_congr (and_congr_right fun _ => mem_levelBufs) rfl rfl)⟩

/-- Settles O46. -/
theorem setValidResult : Obligations.SetValidResult := by
  unfold Obligations.SetValidResult
  refine ⟨fun _ => rfl,
    fun s lv b hidx => finishUnit_of_raised (op_bind_of_error (fetchBandLevel_levelIndex hidx)),
    fun s lv b hc hl hi => finishUnit_of_raised (op_bind_of_error (fetchBandLevel_levelState hc hl hi)),
    fun s lv b hc hl hi hb => finishUnit_of_raised (op_bind_of_error (fetchBandLevel_bandIndex hc hl hi hb)),
    fun s lv b hready => ⟨_, finishUnit_of_ok (op_bind_of_ok (fetchBandLevel_ready hready)), rfl, ?_⟩⟩
  obtain ⟨hc, hl, -, -⟩ := hready
  have hlevel := levelAt_setLevel_same (Nat.lt_succ_of_le hc) (Nat.lt_succ_of_le hl)
    (setValidBit b.toNat (levelAt s lv.c.toNat lv.l.toNat)) s
  simp only [levelAt_setResult, prescaleAt_setResult, hlevel]
  exact ⟨rfl, fun k hk => validBit_setValidBit _ _ hk, fun c l hne => levelAt_setLevel_ne hne _ s,
    fun c l => prescaleAt_setLevel _ _ c l _ s⟩

/-- Settles O47: the checks in their order; a legal level's mask lies inside its declared bands. -/
theorem maskReadResult : Obligations.MaskReadResult := by
  unfold Obligations.MaskReadResult
  refine ⟨fun _ => rfl, fun _ => rfl, fun s lv b => ?_, fun s lv hidx => ?_, fun s lv hc hl => ?_⟩
  · split_ifs with hidx hi hb
    · exact finish_map_of_raised (op_bind_of_error (fetchBandLevel_levelIndex hidx)) .flag
    · exact finish_map_of_raised (op_bind_of_error (fetchBandLevel_levelState (by omega) (by omega) hi)) .flag
    · exact finish_map_of_raised
        (op_bind_of_error (fetchBandLevel_bandIndex (by omega) (by omega) (by simpa using hi) hb)) .flag
    · exact finish_map_of_ok (levelIsValid_ready ⟨by omega, by omega, by simpa using hi, by omega⟩) .flag
  · exact finish_map_of_raised (op_bind_of_error (fetchLevel_levelIndex hidx)) .flag
  · exact ⟨_, finish_map_of_ok (levelAllValid_legal hc hl) .flag, allValid_iff⟩

/-- Settles O48: a view of a whole plane is the plane without its ownership. -/
theorem bandPlaneResult : Obligations.BandPlaneResult := by
  unfold Obligations.BandPlaneResult
  exact ⟨fun _ => rfl,
    fun s lv b hidx => finish_map_of_raised (op_bind_of_error (fetchBandLevel_levelIndex hidx)) .plane,
    fun s lv b hc hl hi => finish_map_of_raised (op_bind_of_error (fetchBandLevel_levelState hc hl hi)) .plane,
    fun s lv b hc hl hi hb => finish_map_of_raised (op_bind_of_error (fetchBandLevel_bandIndex hc hl hi hb)) .plane,
    fun s lv b hready hlegal => finish_map_of_ok (levelBandPlane_ready hready hlegal) .plane⟩

/-- Settles O54: both outputs of each position of the line synthesis are the kernel's at that index. -/
theorem kernelPoints : Obligations.KernelPoints := by
  unfold Obligations.KernelPoints
  refine ⟨fun low high => ?_, fun n k => ?_, fun B k w h X Y h0 h1 h2 h3 => ?_⟩
  · rw [synth1D_eq_map]
    exact ⟨by simp, fun j hj => by simp [hj]⟩
  · have hline (n : Nat) (v : Int) : List.replicate n v = (List.range n).map fun _ => v := by simp
    rw [hline n k, hline n 0, synth1D_map_range, hline]
    exact List.map_congr_left fun j _ => kernelAt_const (fun _ => rfl) (fun _ => rfl) n j
  · exact kernelAt_const (fun y => kernelAt_const (h0 · y) (h1 · y) w X) (fun y => kernelAt_const (h2 · y) (h3 · y) w X)
      h Y

/-- Settles O49: the loop's turns are those of R171; where no turn writes what another reads or writes, each reads
the old element. -/
theorem dequantResult : Obligations.DequantResult := by
  unfold Obligations.DequantResult
  refine ⟨fun s out inp q hd => ?_, fun s out inp q ho hi hne => ?_,
    fun s out inp q ido idi hwf ho hi hw hh hbo hbi => ?_⟩
  · by_cases ho : dangling s out
    · exact finishUnit_of_raised (op_bind_of_error (checkDescriptor_dead (dangling_iff.mp ho)))
    · obtain ⟨_, _, hlo⟩ := liveBuffer_of_not_dangling ho
      exact finishUnit_of_raised ((op_bind_of_ok (checkDescriptor_found hlo)).trans
        (op_bind_of_error (checkDescriptor_dead (dangling_iff.mp (hd.resolve_left ho)))))
  · obtain ⟨_, _, hlo⟩ := liveBuffer_of_not_dangling ho
    obtain ⟨_, _, hli⟩ := liveBuffer_of_not_dangling hi
    exact finishUnit_of_raised ((op_bind_of_ok (checkDescriptor_found hlo)).trans
      ((op_bind_of_ok (checkDescriptor_found hli)).trans (op_bind_of_error (failIf_pos hne _ _ s))))
  · obtain ⟨t, ht, hplane, hcoef⟩ := levelDequant_inside q hwf ho hi hw hh hbo hbi
    refine ⟨_, finishUnit_of_ok ht, by rw [hplane.elements.rest]; rfl,
      fun id e => ⟨hplane.elements.coefAt_isSome id e, congrFun₂ hcoef id e⟩, hplane.outside,
      fun hapart x hx y hy => ?_⟩
    rw [planeLegal_planeAt hi hbi hx hy, Option.map_some,
      ← foldl_dequantTurn_apart ho.1 hi.1 hw hapart hx hy (coefMap s), ← hcoef]
    exact planeLegal_planeAt (hplane.elements.planeLegal ho) hbo (hw ▸ hx) (hh ▸ hy)

/-- Settles O50: the rows of S are computed before the first write, and distinct elements of the sink have distinct
addresses. -/
theorem reconPlaneResult : Obligations.ReconPlaneResult := by
  unfold Obligations.ReconPlaneResult
  intro s lv p prescale clamp hwf hc hl hlegal hv hp hw hh
  obtain ⟨t, ht, helem, hcoef⟩ := levelRecon_plane (prescale := prescale) (clamp := clamp) hc hl rfl hv hwf hlegal hp hw
    hh
  refine ⟨_, finishUnit_of_ok ht, by rw [helem.rest]; rfl, fun X Y hX hY => ?_, fun id e he => ?_⟩
  · obtain ⟨id, b, hlive, -⟩ := planeLegal_buffer hp
    obtain ⟨-, hbuf, -⟩ := liveBuffer_eq_some.mp hlive
    rw [planeAt, hbuf, Option.bind_some]
    refine (hcoef id _).trans (foldl_ite_of_mem (b := (X, Y)) (mem_rowMajor.mpr ⟨hX, hY⟩) ⟨hbuf, rfl⟩
      (fun XY hXY he => ?_) _)
    obtain ⟨hx, -⟩ := mem_rowMajor.mp hXY
    obtain ⟨rfl, rfl⟩ := planeAddr_inj hp.1 hX hx he.2
    rfl
  · refine (hcoef id e).trans (foldl_ite_of_forall_not (fun XY hXY hn => he ?_) _)
    exact inPlane_iff_mem_rowMajor.mpr ⟨hn.1, XY, hXY, hn.2⟩

/-- Settles O51: the writes of R203 in row-major order; with a pattern that is not empty their keys differ. -/
theorem reconImageResult : Obligations.ReconImageResult := by
  unfold Obligations.ReconImageResult
  intro s lv c prescale hwf hc hl hlegal hv hw hh
  obtain ⟨-, hdest, -⟩ := storageWf_iff.mp hwf
  obtain ⟨t, ht, hsamples, hcell⟩ := levelRecon_image (prescale := prescale) hdest hc hl rfl hv hlegal hw hh c
  have hwritten (hpw : 1 ≤ s.hdr.patternWidth.toNat) (hph : 1 ≤ s.hdr.patternHeight.toNat) (X Y : Nat)
      (hX : X < planeWidth s.hdr) (hY : Y < planeHeight s.hdr)
      (hok : destWritable s (destX s c.toNat X) (destY s c.toNat Y)) :
      destSample t (boundDest s).image (destX s c.toNat X) (destY s c.toNat Y) =
        sampleOf (reconValue s (levelAt s lv.c.toNat lv.l.toNat) prescale true X Y) := by
    rw [planeWidth_eq hpw] at hX
    rw [planeHeight_eq hph] at hY
    refine (hcell _).trans (foldl_ite_of_mem (b := (X, Y)) (mem_rowMajor.mpr ⟨hX, hY⟩) ⟨hok, rfl⟩
      (fun XY _ ⟨hok', hkey⟩ => ?_) _)
    obtain ⟨hx, hy⟩ := destKey_inj (destWritable_lt hok) (destWritable_lt hok') hkey
    obtain ⟨rfl, rfl⟩ := destX_destY_inj hpw hph hx hy
    rfl
  refine ⟨_, finishUnit_of_ok ht, by rw [hsamples.rest]; rfl, hcell, fun hpw hph => ⟨hwritten hpw hph,
    fun key hkey => ?_⟩, fun b hb hpw hph hcl hbpc hwb hhb X Y hX hY => ?_⟩
  · refine (hcell key).trans (foldl_ite_of_forall_not (fun XY hXY ⟨hok, he⟩ => ?_) _)
    obtain ⟨hX, hY⟩ := mem_rowMajor.mp hXY
    exact hkey XY.1 XY.2 (planeWidth_eq hpw ▸ hX) (planeHeight_eq hph ▸ hY) hok he
  · have hsample : destSample (setResult .none t) _ _ _ = _ :=
      hwritten hpw hph X Y hX hY (destWritable_of_fits hb hpw hcl hwb hhb hX hY)
    have hpw0 : s.hdr.patternWidth.toNat ≠ 0 := by omega
    rw [sampleOf_reconValue _ _ _ _ hbpc] at hsample
    simpa only [boundDest, hb, Option.map_some, Option.getD_some, destX, destY, remainder, quotient, if_neg hpw0]
      using hsample

/-- Settles O52: every check of LV.RECON stands before its first write. -/
theorem reconChecks : Obligations.ReconChecks := by
  unfold Obligations.ReconChecks
  refine ⟨fun s lv dest p clamp => exec_lvRecon_levelIndex, fun s lv dest p clamp => exec_lvRecon_bandsNotValid,
    fun s lv q p clamp hc hl hv hd => ?_, fun s lv q p clamp hc hl hv hd hne => ?_, fun s lv c p hc hl hv => ?_,
    fun s lv c p hc hl hv hne => ?_, fun s t lv dest p clamp h => ?_⟩
  · exact exec_lvRecon_sink_raised hc hl rfl hv (op_bind_of_error (checkDescriptor_dead (dangling_iff.mp hd)))
  · obtain ⟨_, _, hlive⟩ := liveBuffer_of_not_dangling hd
    exact exec_lvRecon_sink_raised hc hl rfl hv ((op_bind_of_ok (checkDescriptor_found hlive)).trans
      (op_bind_of_error (failIf_pos hne _ _ s)))
  · exact exec_lvRecon_sink_raised hc hl rfl hv ((checkSink_image ..).trans (if_pos rfl))
  · exact exec_lvRecon_sink_raised hc hl rfl hv ((checkSink_image ..).trans
      ((if_neg Bool.noConfusion).trans (if_pos hne)))
  · refine (exec_lvRecon_cases h).imp_right fun ⟨hrest, hc, hl, hv, hsink⟩ => ⟨hrest, hc, hl, hv, ?_⟩
    cases dest with
    | plane q =>
      obtain ⟨-, hd, hw, hh, ha⟩ := checkSink_ok hsink
      exact ⟨hd, hw, hh, fun x y hx hy => ha x y (hw ▸ hx) (hh ▸ hy)⟩
    | image c => exact (checkSink_ok hsink).2

/-- Settles O55: the level's bands agree with the fixture's where the synthesis looks, and it undoes the fixture. -/
theorem losslessRoundTrip : Obligations.LosslessRoundTrip := by
  unfold Obligations.LosslessRoundTrip
  intro s lv p img hwf hc hl hlegal hv hp hw hh hbands
  obtain ⟨t, ht, -, hvalue, -⟩ := reconPlaneResult s lv p 0 false hwf hc hl hlegal hv hp hw hh
  refine ⟨t, ht, fun X hX Y hY => ?_⟩
  rw [hvalue X Y hX hY, reconValue, synthAt_congr hbands (hw ▸ hX) (hh ▸ hY), synthAt_fwdBand]
  simp

end Sys2Proof.Settled
end

section
/-! SUPPORT. The host's commands and the channel transform (`44_channel_orchestrator.md` R191 to R194): their checks in
order and the state each leaves. -/

namespace Sys2Proof.Machine

variable {s : State}

/-- CONSTRUCT's checks in their order (R193). -/
theorem exec_construct (s : State) (input : InHandle) (dest : DestHandle) :
    exec (.construct input dest) s = .next
      (if s.sess ≠ .idle then trapped .sessionState (sessCode s.sess).toNat s
      else if dest.w = 0 ∨ dest.h = 0 ∨ dest.depth < 1 ∨ 16 < dest.depth then trapped .badDest dest.depth s
      else setResult .none (constructed input dest s)) := by
  by_cases hs : s.sess ≠ .idle
  · rw [if_pos hs]
    exact finishUnit_of_raised (op_bind_of_error (failIf_pos hs _ _ s))
  · have hidle := failIf_neg hs .sessionState (sessCode s.sess).toNat s
    rw [if_neg hs]
    by_cases hd : dest.w = 0 ∨ dest.h = 0 ∨ dest.depth < 1 ∨ 16 < dest.depth
    · rw [if_pos hd]
      exact finishUnit_of_raised ((op_bind_of_ok hidle).trans (op_bind_of_error (failIf_pos hd _ _ s)))
    · rw [if_neg hd]
      exact finishUnit_of_ok ((op_bind_of_ok hidle).trans (op_bind_of_ok (failIf_neg hd _ _ s)))

theorem exec_config_sessionState (c l : BitVec 2) (p : BitVec 4) (hs : s.sess ≠ .ready) :
    exec (.config c l p) s = .next (trapped .sessionState (sessCode s.sess).toNat s) :=
  finishUnit_of_raised (op_bind_of_error (failIf_pos hs _ _ s))

theorem exec_config_levelIndex {l : BitVec 2} (c : BitVec 2) (p : BitVec 4) (hs : s.sess = .ready) (hl : 2 < l.toNat) :
    exec (.config c l p) s = .next (trapped .levelIndex (c.toNat * 256 + l.toNat) s) :=
  finishUnit_of_raised ((op_bind_of_ok (failIf_neg (not_not.mpr hs) _ _ s)).trans
    (op_bind_of_error (failIf_pos hl _ _ s)))

theorem exec_config {l : BitVec 2} (c : BitVec 2) (p : BitVec 4) (hs : s.sess = .ready) (hl : l.toNat ≤ 2) :
    exec (.config c l p) s = .next (setResult .none (setPrescale c.toNat l.toNat p s)) :=
  finishUnit_of_ok ((op_bind_of_ok (failIf_neg (not_not.mpr hs) _ _ s)).trans
    (op_bind_of_ok (failIf_neg (Nat.not_lt.mpr hl) _ _ s)))

/-- Writing a prescale register leaves every other prescale register alone. -/
theorem prescaleAt_setPrescale_ne {c l c' l' : Nat} (h : c' ≠ c ∨ l' ≠ l) (p : BitVec 4) (s : State) :
    prescaleAt (setPrescale c l p s) c' l' = prescaleAt s c' l' := by
  by_cases hc : c' = c
  · subst hc
    have hl : l ≠ l' := fun he => h.elim (absurd rfl) (absurd he.symm)
    by_cases h4 : c' < 4
    · simp [prescaleAt, setPrescale, channelAt_setChannel_same h4, hl]
    · simp [prescaleAt, setPrescale, channelAt, setChannel, Vector.getElem?_eq_none (by omega : 4 ≤ c')]
  · simp [prescaleAt, setPrescale, channelAt_setChannel_ne hc]

/-- The index check of CT.LEVEL and CT.PRESCALE (R191, R192), then what follows it. -/
theorem exec_checkLevel {c l : BitVec 8} {op : Op Result} {r : Result} (s : State) (hop : op s = .ok r s) :
    finish (checkLevel ⟨c, l⟩ >>= fun _ => op) s = .next
      (if 3 < c.toNat ∨ 2 < l.toNat then trapped .levelIndex (c.toNat * 256 + l.toNat) s else setResult r s) := by
  by_cases h : 3 < c.toNat ∨ 2 < l.toNat
  · rw [if_pos h]
    exact finish_of_raised (op_bind_of_error (failIf_pos h _ _ s))
  · rw [if_neg h]
    exact finish_of_ok ((op_bind_of_ok (failIf_neg h _ _ s)).trans hop)

/-- A session that is over stays over under every instruction but RESET (`70_reset_and_hazards.md` R253). -/
theorem exec_sess_over {i : Instr} {t : State} (h : exec i s = .next t) (hi : i ≠ .reset)
    (hs : s.sess = .done ∨ s.sess = .faulted) : t.sess = .done ∨ t.sess = .faulted := by
  rcases exec_cases h with ⟨hreset, -⟩ | ⟨input, dest, -, hidle, -, -⟩ | hreach
  · exact absurd hreset hi
  · simp [hidle] at hs
  · rcases exec_session hreach h with (⟨hsess, -⟩ | ⟨-, hfault, -⟩) | ⟨-, -, hdone, -⟩
    · rwa [hsess]
    · exact .inr hfault
    · exact .inl hdone

end Sys2Proof.Machine
end

section
/-! THE STATEMENTS of `44_channel_orchestrator.md` about single commands, settled. -/

namespace Sys2Proof.Settled

open Sys2Proof.Machine

/-- Settles O23: RESET leaves the reset state around what is the host's; of all else only DECODE writes SESS, and it
starts in READY. -/
theorem resetCommand : Obligations.ResetCommand := by
  unfold Obligations.ResetCommand
  refine ⟨fun _ => rfl, fun s => ⟨_, exec_reset s, ?_, rfl, rfl, rfl, rfl, rfl⟩, fun i s t h hi hs =>
    exec_sess_over h hi hs⟩
  exact ⟨rfl, rfl, rfl, rfl, rfl, rfl, fun c _ l _ => prescaleAt_reset c l, rfl, fun c _ l _ => levelAt_reset c l, rfl,
    rfl, rfl, rfl, rfl⟩

/-- Settles O24. -/
theorem constructResult : Obligations.ConstructResult := by
  unfold Obligations.ConstructResult
  exact ⟨fun _ => rfl, fun s input dest => ⟨exec_construct s input dest, rfl⟩⟩

/-- Settles O25. -/
theorem configResult : Obligations.ConfigResult := by
  unfold Obligations.ConfigResult
  refine ⟨fun _ => rfl, fun s c l p => exec_config_sessionState c l p, fun s c l p => exec_config_levelIndex c p,
    fun s c l p hs hl => ⟨_, exec_config c p hs hl, rfl, fun c' l' => ?_, fun c' l' =>
      levelAt_setPrescale _ _ c' l' p s⟩⟩
  rw [prescaleAt_setResult]
  split
  next h =>
    obtain ⟨rfl, rfl⟩ := h
    exact prescaleAt_setPrescale_same c.isLt (Nat.lt_succ_of_le hl) p s
  next h => exact prescaleAt_setPrescale_ne (not_and_or.mp h) p s

/-- Settles O26. -/
theorem statusResult : Obligations.StatusResult := by
  unfold Obligations.StatusResult
  exact ⟨fun _ => rfl, fun _ => rfl⟩

/-- Settles O56: both operations are the index check, then a result. -/
theorem levelAccessResult : Obligations.LevelAccessResult := by
  unfold Obligations.LevelAccessResult
  exact ⟨fun _ => rfl, fun _ => rfl, fun s c l => ⟨exec_checkLevel s rfl, exec_checkLevel s rfl⟩⟩

end Sys2Proof.Settled
end

section
/-! SUPPORT. HDR.PARSE (`44_channel_orchestrator.md` R195, R196) field by field: the fields in their order, the checks
after each, and the program that reads, stores and checks one field after the other. -/

namespace Sys2Proof.Machine

variable {s t u : State} {α : Type}

/-! ## The fields and their places (`30_encoding.md` R93) -/

/-- The field of a header that HDR.PARSE reads after `j` others. -/
def headerField : Nat → HdrField
  | 0 => .numChannels
  | 1 => .numSubbands
  | 2 => .numWavelets
  | 3 => .imageWidth
  | 4 => .imageHeight
  | 5 => .patternWidth
  | 6 => .patternHeight
  | 7 => .formatTag
  | 8 => .bitsPerComponent
  | 9 => .lowpassPrecision
  | j + 10 => if j < 16 then .sequenceId j else if j = 16 then .sequenceNumber else .quant (j - 17)

/-- The bit of a header at which that field starts. -/
def fieldStart (j : Nat) : Nat :=
  if j ≤ 10 then 16 * j else if j ≤ 26 then 160 + 8 * (j - 10) else 320 + 16 * (j - 27)

theorem headerField_sequenceId {k : Nat} (hk : k < 16) : headerField (10 + k) = .sequenceId k := by
  rw [Nat.add_comm, headerField, if_pos hk]

theorem headerField_quant (i : Nat) : headerField (27 + i) = .quant i := by
  rw [show 27 + i = (17 + i) + 10 by omega, headerField, if_neg (by omega), if_neg (by omega), Nat.add_sub_cancel_left]

theorem fieldStart_scalar {j : Nat} (hj : j ≤ 10) : fieldStart j = 16 * j := if_pos hj

theorem fieldStart_sequenceId {k : Nat} (hk : k ≤ 16) : fieldStart (10 + k) = 160 + 8 * k := by
  unfold fieldStart
  split_ifs <;> omega

theorem fieldStart_quant (i : Nat) : fieldStart (27 + i) = 320 + 16 * i := by
  rw [fieldStart, if_neg (by omega), if_neg (by omega), Nat.add_sub_cancel_left]

theorem fieldStart_succ (j : Nat) : fieldStart (j + 1) = fieldStart j + headerFieldBits (headerField j) := by
  rcases Nat.lt_or_ge j 10 with hj | hj
  · rw [fieldStart_scalar hj, fieldStart_scalar hj.le]
    interval_cases j <;> rfl
  · obtain ⟨k, rfl⟩ := Nat.exists_eq_add_of_le hj
    rcases Nat.lt_or_ge k 16 with hk | hk
    · rw [headerField_sequenceId hk, Nat.add_assoc, fieldStart_sequenceId hk, fieldStart_sequenceId hk.le]
      rfl
    · rcases Nat.eq_or_lt_of_le hk with rfl | hk
      · rfl
      · obtain ⟨i, rfl⟩ := Nat.exists_eq_add_of_le hk
        rw [show 10 + (Nat.succ 16 + i) = 27 + i by omega, headerField_quant, Nat.add_assoc, fieldStart_quant,
          fieldStart_quant]
        simp only [headerFieldBits]
        omega

theorem fieldStart_mono : Monotone fieldStart :=
  monotone_nat_of_le_succ fun j => by rw [fieldStart_succ]; exact Nat.le_add_right _ _

/-! ## Reading, storing and checking one field -/

/-- The header registers with a new value in one field; QUANT stands beside them. -/
def hdrWith (f : HdrField) (v : Nat) (h : HdrFields) : HdrFields :=
  match f with
  | .numChannels => { h with numChannels := BitVec.ofNat 16 v }
  | .numSubbands => { h with numSubbands := BitVec.ofNat 16 v }
  | .numWavelets => { h with numWavelets := BitVec.ofNat 16 v }
  | .imageWidth => { h with imageWidth := BitVec.ofNat 16 v }
  | .imageHeight => { h with imageHeight := BitVec.ofNat 16 v }
  | .patternWidth => { h with patternWidth := BitVec.ofNat 16 v }
  | .patternHeight => { h with patternHeight := BitVec.ofNat 16 v }
  | .formatTag => { h with formatTag := BitVec.ofNat 16 v }
  | .bitsPerComponent => { h with bitsPerComponent := BitVec.ofNat 16 v }
  | .lowpassPrecision => { h with lowpassPrecision := BitVec.ofNat 16 v }
  | .sequenceId k => { h with sequenceId := h.sequenceId.setIfInBounds k (BitVec.ofNat 8 v) }
  | .sequenceNumber => { h with sequenceNumber := BitVec.ofNat 32 v }
  | .quant _ => h

/-- A field stored in its register. -/
def storeField (f : HdrField) (v : Nat) : Op Unit :=
  match f with
  | .quant i => modify (setQuant i (BitVec.ofNat 16 v))
  | f => updateHdr (hdrWith f v)

/-- Of the checks that stand after the `k`-th field in the table of R196, the first that fails. -/
def fieldFault (h : HdrFields) (depth k : Nat) : Option (Nat × Bool × Cause × Nat) :=
  ((headerChecks h depth).filter fun c => c.1 = k).find? fun c => c.2.1

/-- The checks after the `k`-th field, made on the registers. -/
def checkField (k : Nat) : Op Unit := do
  let s ← get
  match fieldFault s.hdr (boundDest s).depth k with
  | none => pure ()
  | some c => raise c.2.2.1 c.2.2.2

/-- One field of HDR.PARSE. -/
def parseField (rd : HdrField → Op Nat) (j : Nat) : Op Unit := do
  let v ← rd (headerField j)
  storeField (headerField j) v
  checkField (j + 1)

theorem checkField_of_none {k : Nat} (h : fieldFault s.hdr (boundDest s).depth k = none) :
    checkField k s = .ok () s := by
  rw [checkField, op_bind_of_ok (op_get s), h]
  rfl

theorem checkField_of_some {k : Nat} {c : Nat × Bool × Cause × Nat}
    (h : fieldFault s.hdr (boundDest s).depth k = some c) :
    checkField k s = .error .raised (takeError c.2.2.1 c.2.2.2 s) := by
  rw [checkField, op_bind_of_ok (op_get s), h]
  rfl

/-- No check stands after a field that is not one of the ten scalar fields. -/
theorem fieldFault_of_gt {k : Nat} (hk : 10 < k) (h : HdrFields) (depth : Nat) : fieldFault h depth k = none := by
  have hempty : (headerChecks h depth).filter (fun c => c.1 = k) = [] := by
    refine List.filter_eq_nil_iff.mpr fun c hc => ?_
    simp only [headerChecks, List.mem_cons, List.not_mem_nil, or_false] at hc
    rcases hc with rfl | rfl | rfl | rfl | rfl | rfl | rfl | rfl | rfl | rfl | rfl | rfl <;> simp <;> omega
  rw [fieldFault, hempty, List.find?_nil]

/-! ## HDR.PARSE as a loop over its fields -/

/-- A reader of header fields answers a number of the field's width and leaves HDR alone. -/
def FieldReader (rd : HdrField → Op Nat) : Prop :=
  ∀ f s v t, rd f s = .ok v t → v < 2 ^ headerFieldBits f ∧ t.hdr = s.hdr

theorem fieldReader_readField : FieldReader readField := by
  intro f s v t h
  obtain ⟨-, -, rfl, rfl⟩ := bitRead_ok h
  have hlt := (bitsToNat_spec (streamBits s s.pos (headerFieldBits f))).1
  rw [streamBits_length] at hlt
  exact ⟨hlt, rfl⟩

theorem fieldReader_wordField (h : HeaderWord) : FieldReader (wordField h) := by
  intro f s v t hrd
  obtain ⟨_, u, hu, hv⟩ := op_bind_ok hrd
  obtain ⟨-, rfl⟩ := takeBits_ok hu
  cases hv
  exact ⟨headerFieldValue_lt h f, rfl⟩

/-- Two programs that read and store the same 16-bit field need only agree on what its register then holds. -/
theorem FieldReader.bind_congr {rd : HdrField → Op Nat} (hrd : FieldReader rd) {f : HdrField}
    (hf : headerFieldBits f = 16) (hstore : ∀ v, storeField f v = updateHdr (hdrWith f v)) {F : Nat → Unit → Op α}
    {G : Unit → Op α} (h : ∀ (q : U16) t, t.hdr = hdrWith f q.toNat s.hdr → F q.toNat () t = G () t) :
    (rd f >>= fun v => storeField f v >>= F v) s = (rd f >>= fun v => storeField f v >>= G) s := by
  rw [op_bind, op_bind]
  cases hs : rd f s with
  | error e t => rfl
  | ok v t =>
    obtain ⟨hv, hhdr⟩ := hrd f s v t hs
    rw [hf] at hv
    simp only [hstore]
    exact h ⟨v, hv⟩ (setHdr (hdrWith f v t.hdr) t) (by rw [setHdr_hdr, hhdr]; rfl)

/-- The one check that stands after a field. -/
theorem checkField_eq_failIf {k : Nat} {b : Bool} {p : Prop} [Decidable p] {c : Cause} {i info : Nat}
    (hc : (headerChecks s.hdr (boundDest s).depth).filter (fun c => c.1 = k) = [(k, b, c, i)]) (hb : b = true ↔ p)
    (hi : i = info) : checkField k s = failIf p c info s := by
  subst hi
  rw [failIf_apply, checkField, op_bind_of_ok (op_get s), fieldFault, hc]
  cases b with
  | false => rw [if_neg (hb.not.mp Bool.false_ne_true)]; rfl
  | true => rw [if_pos (hb.mp rfl)]; rfl

/-- The two checks that stand after a field. -/
theorem checkField_eq_failIf_failIf {k : Nat} {b b' : Bool} {p p' : Prop} [Decidable p] [Decidable p'] {c c' : Cause}
    {i i' info info' : Nat}
    (hc : (headerChecks s.hdr (boundDest s).depth).filter (fun c => c.1 = k) = [(k, b, c, i), (k, b', c', i')])
    (hb : b = true ↔ p) (hb' : b' = true ↔ p') (hi : i = info) (hi' : i' = info') :
    checkField k s = (failIf p c info >>= fun _ => failIf p' c' info') s := by
  subst hi hi'
  rw [op_bind, failIf_apply, checkField, op_bind_of_ok (op_get s), fieldFault, hc]
  cases b with
  | true => rw [if_pos (hb.mp rfl)]; rfl
  | false =>
    rw [if_neg (hb.not.mp Bool.false_ne_true)]
    simp only [failIf_apply]
    cases b' with
    | false => rw [if_neg (hb'.not.mp Bool.false_ne_true)]; rfl
    | true => rw [if_pos (hb'.mp rfl)]; rfl

/-- The checks of HDR.PARSE on the numbers read, and the same checks on the registers. -/
theorem check_bind_congr {op op' : Op Unit} {F G : Unit → Op α} (hop : op' s = op s)
    (h : op s = .ok () s → F () s = G () s) (hk : ∀ t, op s = .ok () t → t = s) :
    (op >>= F) s = (op' >>= G) s := by
  rw [op_bind, op_bind, hop]
  cases hs : op s with
  | error e t => rfl
  | ok a t =>
    obtain rfl := hk t hs
    exact h hs

theorem checks_bind_congr {p p' : Prop} [Decidable p] [Decidable p'] {c c' : Cause} {info info' : Nat} {op : Op Unit}
    {F G : Unit → Op α} (hop : op s = (failIf p c info >>= fun _ => failIf p' c' info') s) (h : F () s = G () s) :
    ((failIf p c info >>= fun _ => failIf p' c' info') >>= F) s = (op >>= G) s :=
  check_bind_congr hop (fun _ => h) fun _ ht =>
    (within_bind (within_failIf _ _ _) fun _ => within_failIf _ _ _).ok_nil ht

theorem failIf_bind_congr {p : Prop} [Decidable p] {c : Cause} {info : Nat} {op : Op Unit} {F G : Unit → Op α}
    (hop : op s = failIf p c info s) (h : F () s = G () s) : (failIf p c info >>= F) s = (op >>= G) s :=
  check_bind_congr hop (fun _ => h) fun _ ht => (failIf_ok ht).2

theorem forFrom_add (f : Nat → Op Unit) (start m n : Nat) :
    forFrom start (m + n) f = forFrom start m f >>= fun _ => forFrom (start + m) n f := by
  induction m generalizing start with
  | zero => simp [forFrom]
  | succ m ih =>
    rw [show m + 1 + n = (m + n) + 1 by omega, forFrom, forFrom, ih, bind_assoc, Nat.add_right_comm start 1 m]
    rfl

theorem forFrom_shift {f g : Nat → Op Unit} {start start' n : Nat} (h : ∀ k < n, f (start + k) = g (start' + k)) :
    forFrom start n f = forFrom start' n g := by
  induction n generalizing start start' with
  | zero => rfl
  | succ n ih =>
    have hhead : f start = g start' := h 0 (by omega)
    have htail : forFrom (start + 1) n f = forFrom (start' + 1) n g := ih fun k hk => by
      simpa only [Nat.add_assoc, Nat.add_comm 1 k] using h (k + 1) (by omega)
    rw [forFrom, forFrom, hhead, htail]

theorem checkField_of_gt {k : Nat} (hk : 10 < k) : checkField k = pure () :=
  funext fun _ => checkField_of_none (fieldFault_of_gt hk _ _)

/-- A field no check stands after is only stored. -/
theorem parseField_unchecked (rd : HdrField → Op Nat) {j : Nat} (hj : 10 ≤ j) :
    parseField rd j = rd (headerField j) >>= storeField (headerField j) := by
  simp only [parseField, checkField_of_gt (Nat.lt_succ_of_le hj), bind_pure_unit]

/-- HDR.PARSE after its ten scalar fields: the identifier, the number and the quantization entries. -/
theorem parseRest_eq (rd : HdrField → Op Nat) (n : Nat) :
    forFrom 10 (17 + n) (parseField rd) = (do
      forFrom 0 Config.seqIdBytes fun k => rd (.sequenceId k) >>= storeField (.sequenceId k)
      let number ← rd .sequenceNumber
      storeField .sequenceNumber number
      forFrom 0 n fun i => rd (.quant i) >>= storeField (.quant i)) := by
  have hids : forFrom 10 16 (parseField rd) =
      forFrom 0 Config.seqIdBytes fun k => rd (.sequenceId k) >>= storeField (.sequenceId k) :=
    forFrom_shift fun k hk => by
      rw [parseField_unchecked rd (Nat.le_add_right 10 k), headerField_sequenceId hk, Nat.zero_add]
  have hquant : forFrom 27 n (parseField rd) =
      forFrom 0 n fun i => rd (.quant i) >>= storeField (.quant i) :=
    forFrom_shift fun i _ => by rw [parseField_unchecked rd (by omega), headerField_quant, Nat.zero_add]
  rw [show 17 + n = 16 + (1 + n) by omega, forFrom_add, forFrom_add, hids, hquant]
  simp only [forFrom, parseField_unchecked rd (show 10 ≤ 10 + 16 by decide), headerField, bind_assoc, pure_bind]
  rfl

/-- HDR.PARSE is its fields one after the other. -/
theorem parseHeader_eq {rd : HdrField → Op Nat} (hrd : FieldReader rd) (s : State) :
    parseHeader rd s = (forFrom 0 10 (parseField rd) >>= fun _ => get >>= fun u =>
      forFrom 10 (17 + u.hdr.numSubbands.toNat) (parseField rd)) s := by
  simp only [parseRest_eq, forFrom, parseField, bind_assoc, pure_bind]
  unfold parseHeader
  refine hrd.bind_congr rfl (fun _ => rfl) fun nc s1 h1 => ?_
  refine failIf_bind_congr (checkField_eq_failIf rfl (by simp [hdrWith, h1, Config.maxChannels])
    (by simp [hdrWith, h1])) ?_
  refine hrd.bind_congr rfl (fun _ => rfl) fun nsb s2 h2 => ?_
  rw [h1] at h2
  refine failIf_bind_congr (checkField_eq_failIf rfl (by simp [hdrWith, h2, Config.maxSubbands])
    (by simp [hdrWith, h2])) ?_
  refine hrd.bind_congr rfl (fun _ => rfl) fun nw s3 h3 => ?_
  rw [h2] at h3
  rw [← bind_assoc]
  refine checks_bind_congr (checkField_eq_failIf_failIf rfl (by simp [hdrWith, h3, Config.maxWavelets])
    (by simp [hdrWith, h3]) (by simp [hdrWith, h3]) (by simp [hdrWith, h3])) ?_
  refine hrd.bind_congr rfl (fun _ => rfl) fun w s4 h4 => ?_
  rw [h3] at h4
  refine failIf_bind_congr (checkField_eq_failIf rfl (by simp [hdrWith, h4]) (by simp [hdrWith, h4])) ?_
  refine hrd.bind_congr rfl (fun _ => rfl) fun ht s5 h5 => ?_
  rw [h4] at h5
  refine failIf_bind_congr (checkField_eq_failIf rfl (by simp [hdrWith, h5]) (by simp [hdrWith, h5])) ?_
  refine hrd.bind_congr rfl (fun _ => rfl) fun pw s6 h6 => ?_
  rw [h5] at h6
  refine failIf_bind_congr (checkField_eq_failIf rfl (by simp [hdrWith, h6]) (by simp [hdrWith, h6])) ?_
  refine hrd.bind_congr rfl (fun _ => rfl) fun ph s7 h7 => ?_
  rw [h6] at h7
  rw [← bind_assoc]
  refine checks_bind_congr (checkField_eq_failIf_failIf rfl (by simp [hdrWith, h7]) (by simp [hdrWith, h7])
    (by simp [hdrWith, h7]) (by simp [hdrWith, h7])) ?_
  refine hrd.bind_congr rfl (fun _ => rfl) fun fmt s8 h8 => ?_
  rw [h7] at h8
  refine failIf_bind_congr (checkField_eq_failIf rfl (by simp [hdrWith, h8]) (by simp [hdrWith, h8])) ?_
  refine hrd.bind_congr rfl (fun _ => rfl) fun bpc s9 h9 => ?_
  rw [h8] at h9
  rw [op_bind_of_ok (op_get s9)]
  refine failIf_bind_congr (checkField_eq_failIf rfl (by simp [hdrWith, h9, Config.bpcMax]) (by simp [hdrWith, h9])) ?_
  refine hrd.bind_congr rfl (fun _ => rfl) fun lpp s10 h10 => ?_
  rw [h9] at h10
  refine failIf_bind_congr (checkField_eq_failIf rfl (by simp [hdrWith, h10, Config.lowpassPrecisionMax])
    (by simp [hdrWith, h10])) ?_
  rw [op_bind_of_ok (op_get s10), show s10.hdr.numSubbands.toNat = nsb.toNat by simp [hdrWith, h10]]
  rfl

end Sys2Proof.Machine
end

section
/-! SUPPORT. What HDR.PARSE leaves after any number of its fields, and where it stops (`44_channel_orchestrator.md`
R195, R196; `40_bitreader_rlv.md` R124). -/

namespace Sys2Proof.Machine

variable {s t u : State} {h : HeaderWord} {rd : HdrField → Op Nat}

/-! ## The registers after the fields that end within `k` bits -/

/-- QUANT after the entries of `h` that end within its first `k` bits were stored. -/
def quantStored (k : Nat) (h : HeaderWord) (s : State) : Vector U16 10 :=
  Vector.ofFn fun i => if 320 + 16 * (i.val + 1) ≤ k then h.quant.getD i 0 else quantAt s i

/-- The state after the first `j` fields of `h` were read and stored. -/
def afterFields (h : HeaderWord) (j : Nat) (s : State) : State :=
  { s with
    hdr := headerStored (fieldStart j) h.fields s.hdr
    quant := quantStored (fieldStart j) h s
    pos := s.pos + fieldStart j }

theorem quantStored_getElem? {k i : Nat} (hi : i < 10) :
    (quantStored k h s)[i]? = some (if 320 + 16 * (i + 1) ≤ k then h.quant.getD i 0 else quantAt s i) := by
  simp [quantStored, hi]

theorem quantAt_afterFields {j i : Nat} (hi : i < 10) :
    quantAt (afterFields h j s) i = if 320 + 16 * (i + 1) ≤ fieldStart j then h.quant.getD i 0 else quantAt s i := by
  rw [quantAt, afterFields, quantStored_getElem? hi, Option.getD_some]

/-- Before the first entry ends QUANT is as it was. -/
theorem quantStored_of_lt {k : Nat} (hk : k < 336) : quantStored k h s = s.quant := by
  ext i hi
  simp [quantStored, quantAt, show ¬320 + 16 * (i + 1) ≤ k by omega]

theorem headerStored_congr {k k' : Nat} {new old : HdrFields} (hscalar : ∀ i ≤ 10, i ≤ k / 16 ↔ i ≤ k' / 16)
    (hid : ∀ i < 16, 168 + 8 * i ≤ k ↔ 168 + 8 * i ≤ k') (hnumber : 320 ≤ k ↔ 320 ≤ k') :
    headerStored k new old = headerStored k' new old := by
  have hids (j : Fin 16) : (168 + 8 * j.val ≤ k) = (168 + 8 * j.val ≤ k') := propext (hid j j.isLt)
  simp only [headerStored, headerPrefix, hscalar, hids, hnumber, Nat.reduceLeDiff]

/-- Within the ten scalar fields no identifier byte is stored. -/
theorem headerStored_scalar {j : Nat} (hj : j ≤ 10) (new old : HdrFields) :
    headerStored (16 * j) new old = headerPrefix j new old := by
  have hids : (Vector.ofFn fun i : Fin 16 =>
      if 168 + 8 * i.val ≤ 16 * j then new.sequenceId[i.val]?.getD 0 else old.sequenceId[i.val]?.getD 0) =
        old.sequenceId := by
    ext i hi
    simp [show ¬168 + 8 * i ≤ 16 * j by omega]
  rw [headerStored, hids, Nat.mul_div_cancel_left j (by decide), if_neg (by omega)]
  rfl

/-- Within the identifier all scalar fields are stored, and the bytes that end in time. -/
theorem headerStored_sequenceId {k : Nat} (hk : k ≤ 16) (new old : HdrFields) :
    headerStored (160 + 8 * k) new old =
      { new with
        sequenceId := Vector.ofFn fun i : Fin 16 => if i.val < k then new.sequenceId[i] else old.sequenceId[i]
        sequenceNumber := old.sequenceNumber } := by
  have hscalars (i : Nat) (hi : i ≤ 10) : i ≤ (160 + 8 * k) / 16 := by omega
  have hids (i : Fin 16) : (168 + 8 * i.val ≤ 160 + 8 * k) = (i.val < k) := by
    rw [eq_iff_iff]
    omega
  simp only [headerStored, headerPrefix, hscalars, hids, Nat.reduceLeDiff, if_true, show ¬320 ≤ 160 + 8 * k by omega,
    if_false]
  simp

/-- From 320 bits on every field is stored. -/
theorem headerStored_all {k : Nat} (hk : 320 ≤ k) (new old : HdrFields) : headerStored k new old = new := by
  have hids : (Vector.ofFn fun i : Fin 16 =>
      if 168 + 8 * i.val ≤ k then new.sequenceId[i.val]?.getD 0 else old.sequenceId[i.val]?.getD 0) =
        new.sequenceId := by
    ext i hi
    simp [show 168 + 8 * i ≤ k by omega]
  have hscalars (i : Nat) (hi : i ≤ 10) : i ≤ k / 16 := by omega
  rw [headerStored, hids]
  simp only [headerPrefix, hscalars, hk, Nat.reduceLeDiff, if_true]

theorem afterFields_zero (h : HeaderWord) (s : State) : afterFields h 0 s = s := by
  rw [afterFields, quantStored_of_lt (by decide)]
  exact congrArg (fun x => { s with hdr := x }) (headerStored_scalar (j := 0) (by decide) _ _)

/-! ## One field more -/

/-- One byte more of an identifier stored over another. -/
theorem storedBytes_succ (k : Nat) (new old : Vector Byte 16) :
    (Vector.ofFn fun i : Fin 16 => if i.val < k then new[i] else old[i]).setIfInBounds k
        (BitVec.ofNat 8 (new[k]?.getD 0).toNat) =
      Vector.ofFn fun i : Fin 16 => if i.val < k + 1 then new[i] else old[i] := by
  refine Vector.ext fun i hi => ?_
  by_cases hik : k = i
  · subst hik
    simp [hi]
  · simp [hik, show i ≤ k ↔ i < k by omega]

/-- A field of `h` stored over the registers that hold those before it. -/
theorem hdrWith_headerStored {j : Nat} (hj : j < 27) (h : HeaderWord) (old : HdrFields) :
    hdrWith (headerField j) (headerFieldValue h (headerField j)) (headerStored (fieldStart j) h.fields old) =
      headerStored (fieldStart (j + 1)) h.fields old := by
  rcases Nat.lt_or_ge j 10 with hs | hs
  · rw [fieldStart_scalar hs, fieldStart_scalar hs.le, headerStored_scalar hs, headerStored_scalar hs.le]
    interval_cases j <;> simp [hdrWith, headerField, headerFieldValue, headerPrefix]
  · obtain ⟨k, rfl⟩ := Nat.exists_eq_add_of_le hs
    rcases Nat.lt_or_ge k 16 with hk | hk
    · rw [headerField_sequenceId hk, Nat.add_assoc, fieldStart_sequenceId hk.le, fieldStart_sequenceId hk,
        headerStored_sequenceId hk.le, headerStored_sequenceId hk]
      rw [← storedBytes_succ k]
      rfl
    · obtain rfl : k = 16 := by omega
      have hlast := headerStored_sequenceId le_rfl h.fields old
      rw [fieldStart_sequenceId le_rfl, hlast, headerStored_all (by decide)]
      simp [hdrWith, headerField, headerFieldValue]

/-- A quantization entry of `h` stored over those before it. -/
theorem quantStored_succ (i : Nat) (h : HeaderWord) (s : State) :
    (quantStored (320 + 16 * i) h s).setIfInBounds i (BitVec.ofNat 16 (h.quant.getD i 0).toNat) =
      quantStored (320 + 16 * (i + 1)) h s := by
  refine Vector.ext fun k hk => ?_
  by_cases hik : i = k
  · subst hik
    simp [quantStored]
  · simp [quantStored, hik, show k < i ↔ k < i + 1 by omega]

theorem storeField_of_lt {j : Nat} (hj : j < 27) (v : Nat) :
    storeField (headerField j) v = updateHdr (hdrWith (headerField j) v) := by
  rcases Nat.lt_or_ge j 10 with hs | hs
  · interval_cases j <;> rfl
  · obtain ⟨k, rfl⟩ := Nat.exists_eq_add_of_le hs
    rcases Nat.lt_or_ge k 16 with hk | hk
    · rw [headerField_sequenceId hk]
      rfl
    · obtain rfl : k = 16 := by omega
      rfl

/-- A field of `h` read and stored after those before it. -/
theorem storeField_afterFields (h : HeaderWord) (j : Nat) (s : State) :
    storeField (headerField j) (headerFieldValue h (headerField j))
        (advance (headerFieldBits (headerField j)) (afterFields h j s)) = .ok () (afterFields h (j + 1) s) := by
  have hpos : (afterFields h j s).pos + headerFieldBits (headerField j) = s.pos + fieldStart (j + 1) := by
    rw [fieldStart_succ, ← Nat.add_assoc]
    rfl
  rw [advance, hpos]
  rcases Nat.lt_or_ge j 27 with hj | hj
  · have hmax : fieldStart (j + 1) ≤ 320 := fieldStart_mono (Nat.succ_le_of_lt hj)
    have hmono : fieldStart j ≤ fieldStart (j + 1) := fieldStart_mono (Nat.le_succ j)
    rw [storeField_of_lt hj, updateHdr, op_modify]
    simp only [afterFields, quantStored_of_lt (show fieldStart j < 336 by omega),
      quantStored_of_lt (show fieldStart (j + 1) < 336 by omega), ← hdrWith_headerStored hj]
    rfl
  · obtain ⟨i, rfl⟩ := Nat.exists_eq_add_of_le hj
    rw [headerField_quant]
    simp only [afterFields, fieldStart_quant, Nat.add_assoc, headerStored_all (Nat.le_add_right 320 _),
      ← quantStored_succ]
    rfl

/-- The checks after a field look at no field that follows. -/
theorem fieldFault_headerStored (j depth : Nat) (new old : HdrFields) :
    fieldFault (headerStored (fieldStart j) new old) depth j = fieldFault new depth j := by
  rcases Nat.lt_or_ge 10 j with hj | hj
  · rw [fieldFault_of_gt hj, fieldFault_of_gt hj]
  · rw [fieldStart_scalar hj, headerStored_scalar hj]
    interval_cases j <;> simp [fieldFault, headerChecks, headerPrefix]

/-! ## The loop over the fields -/

/-- Field `j` of `h`, wherever the registers stand, is what `rd` reads at its place after the POS of `s`. -/
def Supplies (rd : HdrField → Op Nat) (h : HeaderWord) (s : State) (j : Nat) : Prop :=
  ∀ u, u.pos = s.pos + fieldStart j → u.binding = s.binding → u.mem = s.mem →
    rd (headerField j) u = .ok (headerFieldValue h (headerField j)) (advance (headerFieldBits (headerField j)) u)

section
variable {b : Binding} (hb : s.binding = some b)
include hb

theorem depth_afterFields (j : Nat) : (boundDest (afterFields h j s)).depth = b.dest.depth := by
  simp [boundDest, afterFields, hb]

omit hb in
theorem parseField_read {j : Nat} (hread : Supplies rd h s j) :
    parseField rd j (afterFields h j s) = checkField (j + 1) (afterFields h (j + 1) s) := by
  unfold parseField
  exact (op_bind_of_ok (hread (afterFields h j s) rfl rfl rfl)).trans
    (op_bind_of_ok (storeField_afterFields h j s))

theorem parseField_passes {j : Nat} (hread : Supplies rd h s j)
    (hcheck : fieldFault h.fields b.dest.depth (j + 1) = none) :
    parseField rd j (afterFields h j s) = .ok () (afterFields h (j + 1) s) := by
  rw [parseField_read hread]
  refine checkField_of_none ?_
  rw [depth_afterFields hb]
  exact (fieldFault_headerStored _ _ _ _).trans hcheck

/-- The field after which the first check fails. -/
theorem parseField_fails {j : Nat} {c : Nat × Bool × Cause × Nat} (hread : Supplies rd h s j)
    (hcheck : fieldFault h.fields b.dest.depth (j + 1) = some c) :
    parseField rd j (afterFields h j s) =
      .error .raised (takeError c.2.2.1 c.2.2.2 (afterFields h (j + 1) s)) := by
  rw [parseField_read hread]
  refine checkField_of_some ?_
  rw [depth_afterFields hb]
  exact (fieldFault_headerStored _ _ _ _).trans hcheck

/-- Fields read one after the other with no check failing. -/
theorem parseFields_pass (j m : Nat) (hread : ∀ i < j + m, Supplies rd h s i)
    (hcheck : ∀ i < j + m, fieldFault h.fields b.dest.depth (i + 1) = none) :
    forFrom j m (parseField rd) (afterFields h j s) = .ok () (afterFields h (j + m) s) := by
  induction m generalizing j with
  | zero => rfl
  | succ m ih =>
    rw [show j + (m + 1) = j + 1 + m by omega] at hread hcheck ⊢
    rw [forFrom, op_bind_of_ok (parseField_passes hb (hread j (by omega)) (hcheck j (by omega)))]
    exact ih (j + 1) hread hcheck

omit hb in
/-- The register that says how many quantization entries follow, once it is stored. -/
theorem numSubbands_afterFields : (afterFields h 10 s).hdr.numSubbands = h.fields.numSubbands := by
  rw [afterFields, fieldStart_scalar le_rfl, headerStored_scalar le_rfl]
  rfl

/-- HDR.PARSE of a header all of whose fields are read and pass. -/
theorem parseHeader_passes (hrd : FieldReader rd)
    (hread : ∀ j < 27 + h.fields.numSubbands.toNat, Supplies rd h s j)
    (hcheck : ∀ k, fieldFault h.fields b.dest.depth k = none) :
    parseHeader rd s = .ok () (afterFields h (27 + h.fields.numSubbands.toNat) s) := by
  have hten := parseFields_pass hb 0 10 (fun i hi => hread i (by omega)) fun i _ => hcheck _
  have hrest := parseFields_pass hb 10 (17 + h.fields.numSubbands.toNat)
    (fun i hi => hread i (by omega)) fun i _ => hcheck _
  rw [afterFields_zero, Nat.zero_add] at hten
  rw [parseHeader_eq hrd, op_bind_of_ok hten, op_bind_of_ok (op_get _), numSubbands_afterFields, hrest,
    show 10 + (17 + h.fields.numSubbands.toNat) = 27 + h.fields.numSubbands.toNat by omega]

omit hb in
theorem forFrom_stops {f : Nat → Op Unit} {j m n : Nat} {e : Stop} (hpass : forFrom j m f s = .ok () t) (hmn : m < n)
    (hstop : f (j + m) t = .error e u) : forFrom j n f s = .error e u := by
  obtain ⟨r, rfl⟩ := Nat.exists_eq_add_of_lt hmn
  rw [show m + r + 1 = m + (r + 1) by omega, forFrom_add, op_bind_of_ok hpass, forFrom, op_bind_of_error hstop]

/-- HDR.PARSE stops where the first of its fields does. -/
theorem parseHeader_stops (hrd : FieldReader rd) {j : Nat} {e : Stop} (hj : j < 27 + h.fields.numSubbands.toNat)
    (hread : ∀ i < j, Supplies rd h s i) (hcheck : ∀ i < j, fieldFault h.fields b.dest.depth (i + 1) = none)
    (hstop : parseField rd j (afterFields h j s) = .error e u) : parseHeader rd s = .error e u := by
  rw [parseHeader_eq hrd]
  rcases Nat.lt_or_ge j 10 with hlt | hge
  · have hpass := parseFields_pass hb 0 j (fun i hi => hread i (by omega)) fun i hi => hcheck i (by omega)
    rw [afterFields_zero, Nat.zero_add] at hpass
    exact op_bind_of_error (forFrom_stops hpass hlt (by rwa [Nat.zero_add]))
  · obtain ⟨m, rfl⟩ := Nat.exists_eq_add_of_le hge
    have hten := parseFields_pass hb 0 10 (fun i hi => hread i (by omega)) fun i hi => hcheck i (by omega)
    rw [afterFields_zero, Nat.zero_add] at hten
    have hpass := parseFields_pass hb 10 m hread hcheck
    rw [op_bind_of_ok hten, op_bind_of_ok (op_get _), numSubbands_afterFields]
    exact forFrom_stops hpass (by omega) hstop

end

/-! ## The table of R196 by field -/

/-- In a list ordered by key the first hit is the first among those of its own key, and no smaller key has one. -/
theorem find?_filter_of_sorted {β : Type} {l : List (Nat × β)} {p : Nat × β → Bool} {c : Nat × β}
    (hl : l.Pairwise fun a b => a.1 ≤ b.1) (hc : l.find? p = some c) :
    (l.filter fun a => a.1 = c.1).find? p = some c ∧ ∀ k < c.1, (l.filter fun a => a.1 = k).find? p = none := by
  obtain ⟨hp, pre, post, rfl, hpre⟩ := List.find?_eq_some_iff_append.mp hc
  obtain ⟨-, hpost, -⟩ := List.pairwise_append.mp hl
  have hge : ∀ a ∈ post, c.1 ≤ a.1 := fun a => List.rel_of_pairwise_cons hpost
  simp only [List.find?_filter]
  constructor
  · refine List.find?_eq_some_iff_append.mpr ⟨by simpa using hp, pre, post, rfl, fun a ha => ?_⟩
    have hna := hpre a ha
    simp_all
  · intro k hk
    refine List.find?_eq_none.mpr fun a ha hak => ?_
    obtain ⟨hkey, hpa⟩ : a.1 = k ∧ p a = true := by simpa using hak
    rcases List.mem_append.mp ha with ha | ha
    · have hna := hpre a ha
      simp_all
    · rcases List.mem_cons.mp ha with rfl | ha
      · omega
      · have := hge a ha
        omega

theorem headerChecks_sorted (f : HdrFields) (depth : Nat) : (headerChecks f depth).Pairwise fun a b => a.1 ≤ b.1 := by
  simp [headerChecks]

theorem headerChecks_key {f : HdrFields} {depth : Nat} {c : Nat × Bool × Cause × Nat}
    (hc : c ∈ headerChecks f depth) : 1 ≤ c.1 ∧ c.1 ≤ 10 := by
  simp only [headerChecks, List.mem_cons, List.not_mem_nil, or_false] at hc
  rcases hc with rfl | rfl | rfl | rfl | rfl | rfl | rfl | rfl | rfl | rfl | rfl | rfl <;> simp

/-- A header with no fault fails no check. -/
theorem fieldFault_of_headerFault_none {f : HdrFields} {depth : Nat} (hf : headerFault f depth = none) (k : Nat) :
    fieldFault f depth k = none := by
  rw [headerFault, Option.map_eq_none_iff, List.find?_eq_none] at hf
  exact List.find?_eq_none.mpr fun c hc => hf c (List.mem_of_mem_filter hc)

/-- A header's fault is the first check that fails after its field, and no check fails after an earlier one. -/
theorem fieldFault_of_headerFault {f : HdrFields} {depth k info : Nat} {cause : Cause}
    (hf : headerFault f depth = some (k, cause, info)) :
    1 ≤ k ∧ k ≤ 10 ∧ fieldFault f depth k = some (k, true, cause, info) ∧ ∀ j < k, fieldFault f depth j = none := by
  rw [headerFault, Option.map_eq_some_iff] at hf
  obtain ⟨⟨k', fails, c, i⟩, hfind, heq⟩ := hf
  obtain ⟨rfl, rfl, rfl⟩ : k' = k ∧ c = cause ∧ i = info := by simpa using heq
  obtain rfl : fails = true := List.find?_some hfind
  obtain ⟨hlo, hhi⟩ := headerChecks_key (List.mem_of_find?_eq_some hfind)
  obtain ⟨hhere, hbefore⟩ := find?_filter_of_sorted (headerChecks_sorted f depth) hfind
  exact ⟨hlo, hhi, hhere, hbefore⟩

/-! ## The bits of the fields -/

/-- The bits of the first `m` fields of a header. -/
def headerPart (h : HeaderWord) (m : Nat) : List Bool := (List.range m).flatMap fun j => fieldBits h (headerField j)

theorem headerPart_succ (h : HeaderWord) (m : Nat) :
    headerPart h (m + 1) = headerPart h m ++ fieldBits h (headerField m) := by
  simp [headerPart, List.range_succ]

theorem headerPart_length (h : HeaderWord) (m : Nat) : (headerPart h m).length = fieldStart m := by
  induction m with
  | zero => rfl
  | succ m ih => rw [headerPart_succ, List.length_append, ih, fieldBits, natToBits_length, fieldStart_succ]

theorem headerPart_prefix (h : HeaderWord) {j m : Nat} (hjm : j ≤ m) : headerPart h j <+: headerPart h m := by
  induction m, hjm using Nat.le_induction with
  | base => exact List.prefix_refl _
  | succ m _ ih =>
    rw [headerPart_succ]
    exact ih.trans (List.prefix_append _ _)

theorem headerPart_ten (h : HeaderWord) : headerPart h 10 = wordsBits h.fields.scalars := by
  simp [headerPart, List.range_succ, headerField, fieldBits, headerFieldBits, headerFieldValue, wordsBits,
    HdrFields.scalars]

/-- The first scalar fields of a header, whatever follows them. -/
theorem headerPart_eq_take {k : Nat} (hk : k ≤ 10) : headerPart h k = (headerBits h).take (16 * k) := by
  have hpre : headerPart h k <+: headerBits h :=
    (headerPart_prefix h hk).trans (by rw [headerPart_ten, headerBits_eq]; exact List.prefix_append _ _)
  rw [List.prefix_iff_eq_take.mp hpre, headerPart_length, fieldStart_scalar hk]

theorem range_add_flatMap {α : Type} (m n : Nat) (f : Nat → List α) :
    (List.range (m + n)).flatMap f = (List.range m).flatMap f ++ (List.range' 0 n).flatMap fun i => f (m + i) := by
  rw [List.range_add, List.flatMap_append, List.flatMap_map, List.range_eq_range' (n := n)]

/-- A header is its fields. -/
theorem headerBits_eq_headerPart (hwf : h.wf) : headerBits h = headerPart h (27 + h.fields.numSubbands.toNat) := by
  have hids : ((List.range' 0 16).flatMap fun k => fieldBits h (headerField (10 + k))) =
      (List.range' 0 Config.seqIdBytes).flatMap fun k => fieldBits h (.sequenceId k) :=
    List.flatMap_congr fun k hk => by rw [headerField_sequenceId (by simpa using hk)]
  rw [headerBits_eq_fieldBits hwf, headerPart, range_add_flatMap]
  simp only [headerField_quant]
  rw [show 27 = 26 + 1 from rfl, List.range_succ, List.flatMap_append, show 26 = 10 + 16 from rfl, range_add_flatMap,
    hids]
  simp [List.range_succ, headerField, headerFieldValue]

theorem headerBits_length (hwf : h.wf) : (headerBits h).length = 320 + 16 * h.fields.numSubbands.toNat := by
  rw [headerBits_eq_headerPart hwf, headerPart_length, fieldStart_quant]

/-- The stream from a place within it, in a state that reads the same buffer. -/
theorem streamRest_of_pos {k : Nat} (hpos : u.pos = s.pos + k) (hbind : u.binding = s.binding) (hmem : u.mem = s.mem) :
    streamRest u = (streamRest s).drop k := by
  have hsame : streamRest u = streamRest (advance k s) := by
    have hbit : streamBit u = streamBit (advance k s) := by
      unfold streamBit
      rw [hbind, hmem]
      rfl
    rw [streamRest, streamRest, streamBits, streamBits, hbit, streamEnd, streamEnd, hpos, hbind]
    rfl
  rw [hsame, streamRest_advance]

/-- Fields that stand in the buffer are read. -/
theorem supplies_readField {m j : Nat} {post : List Bool} (hs : streamRest s = headerPart h m ++ post) (hj : j < m) :
    Supplies readField h s j := by
  intro u hpos hbind hmem
  obtain ⟨more, hmore⟩ := headerPart_prefix h (Nat.succ_le_of_lt hj)
  have hrest : streamRest u = fieldBits h (headerField j) ++ (more ++ post) := by
    rw [streamRest_of_pos hpos hbind hmem, hs, ← hmore, headerPart_succ, ← headerPart_length h j]
    simp
  have hne : fieldBits h (headerField j) ≠ [] := by
    rw [← List.length_pos_iff, fieldBits, natToBits_length]
    cases headerField j <;> simp [headerFieldBits]
  rw [reads_readField h _ u (.of_streamRest hrest hne), fieldBits, natToBits_length]

/-- The fields of a header word need only room in the buffer (log 4). -/
theorem supplies_wordField {j : Nat} (hs : s.pos + fieldStart (j + 1) ≤ streamEnd s) :
    Supplies (wordField h) h s j := by
  intro u hpos hbind hmem
  rw [fieldStart_succ] at hs
  have hend : streamEnd u = streamEnd s := by rw [streamEnd, hbind]; rfl
  exact (takes_takeBits _).map (fun _ => headerFieldValue h (headerField j)) u (by omega)

end Sys2Proof.Machine
end

section
/-! SUPPORT. HDR.PARSE and a header word on a legal header, on one whose checks fail, and on one that is cut
(`44_channel_orchestrator.md` R195, R196). -/

namespace Sys2Proof.Machine

variable {s : State} {h : HeaderWord} {b : Binding}

theorem finish_afterFields (h : HeaderWord) (s : State) :
    ∃ t, Host.Outcome.next (setResult .none (afterFields h (27 + h.fields.numSubbands.toNat) s)) =
        (.next t : Host.Outcome State Fault Refusal) ∧
      t = { s with
        hdr := h.fields
        quant := t.quant
        pos := s.pos + (320 + 16 * h.fields.numSubbands.toNat)
        result := .none } ∧
      ∀ i < 10, quantAt t i = if i < h.fields.numSubbands.toNat then h.quant.getD i 0 else quantAt s i := by
  refine ⟨_, rfl, ?_, fun i hi => ?_⟩
  · rw [afterFields, fieldStart_quant, headerStored_all (Nat.le_add_right _ _)]
    rfl
  · refine (quantAt_afterFields hi).trans ?_
    rw [fieldStart_quant]
    exact if_congr (by omega) rfl rfl

/-- A header word with room for its bits. -/
theorem exec_hdr_of_legal (hb : s.binding = some b) (hlegal : headerFault h.fields b.dest.depth = none)
    (hroom : s.pos + (320 + 16 * h.fields.numSubbands.toNat) ≤ streamEnd s) :
    exec (.hdr h) s = .next (setResult .none (afterFields h (27 + h.fields.numSubbands.toNat) s)) := by
  refine finishUnit_of_ok (parseHeader_passes hb (fieldReader_wordField h) (fun j hj => supplies_wordField ?_)
    (fieldFault_of_headerFault_none hlegal))
  have hle : fieldStart (j + 1) ≤ fieldStart (27 + h.fields.numSubbands.toNat) := fieldStart_mono hj
  rw [fieldStart_quant] at hle
  omega

/-! ## Traps -/

/-- The field a header's bit lies in. -/
def fieldOfBit (k : Nat) : Nat :=
  if k < 160 then k / 16 else if k < 288 then 10 + (k - 160) / 8 else if k < 320 then 26 else 27 + (k - 320) / 16

theorem fieldStart_fieldOfBit (k : Nat) : fieldStart (fieldOfBit k) = headerCut k := by
  unfold fieldOfBit fieldStart headerCut
  split_ifs <;> omega

theorem headerCut_le (k : Nat) : headerCut k ≤ k := by
  unfold headerCut
  split_ifs <;> omega

theorem lt_fieldStart_succ (k : Nat) : k < fieldStart (fieldOfBit k + 1) := by
  unfold fieldOfBit fieldStart
  split_ifs <;> omega

/-- The fields complete after `k` bits are those complete where the cut field starts. -/
theorem fieldStart_le_headerCut {i k : Nat} : fieldStart i ≤ headerCut k ↔ fieldStart i ≤ k := by
  refine ⟨fun hi => hi.trans (headerCut_le k), fun hi => ?_⟩
  rw [← fieldStart_fieldOfBit]
  refine fieldStart_mono (Nat.lt_succ_iff.mp (fieldStart_mono.reflect_lt ?_))
  exact hi.trans_lt (lt_fieldStart_succ k)

theorem headerStored_headerCut (k : Nat) (new old : HdrFields) :
    headerStored (headerCut k) new old = headerStored k new old := by
  refine headerStored_congr (fun i hi => ?_) (fun i hi => ?_) ?_
  · have hcut := fieldStart_le_headerCut (i := i) (k := k)
    rw [fieldStart_scalar hi] at hcut
    omega
  · have hcut := fieldStart_le_headerCut (i := 10 + (i + 1)) (k := k)
    rw [fieldStart_sequenceId (by omega)] at hcut
    omega
  · exact fieldStart_le_headerCut (i := 27) (k := k)

/-- Where the first check fails. -/
theorem hdrParse_fails {k info : Nat} {cause : Cause} {rest : List Bool} (hb : s.binding = some b)
    (hfault : headerFault h.fields b.dest.depth = some (k, cause, info))
    (hs : streamRest s = (headerBits h).take (16 * k) ++ rest) :
    exec .hdrParse s = .next
      (trapped cause info { s with hdr := headerPrefix k h.fields s.hdr, pos := s.pos + 16 * k }) := by
  obtain ⟨hlo, hhi, hhere, hbefore⟩ := fieldFault_of_headerFault hfault
  obtain ⟨j, rfl⟩ := Nat.exists_eq_add_of_le' hlo
  rw [← headerPart_eq_take hhi] at hs
  have hstop := parseField_fails hb (supplies_readField hs (Nat.lt_succ_self j)) hhere
  have hstate : afterFields h (j + 1) s =
      { s with hdr := headerPrefix (j + 1) h.fields s.hdr, pos := s.pos + 16 * (j + 1) } := by
    rw [afterFields, fieldStart_scalar hhi, headerStored_scalar hhi, quantStored_of_lt (by omega)]
  rw [hstate] at hstop
  exact finishUnit_of_raised (parseHeader_stops hb fieldReader_readField (by omega)
    (fun i hi => supplies_readField hs (by omega)) (fun i hi => hbefore _ (by omega)) hstop)

/-- Where a header is cut before any check failed. -/
theorem hdrParse_overruns {k : Nat} (hb : s.binding = some b) (hwf : h.wf) (hk : k < (headerBits h).length)
    (hpass : ∀ f cause info, headerFault h.fields b.dest.depth = some (f, cause, info) → k < 16 * f)
    (hs : streamRest s = (headerBits h).take k) :
    exec .hdrParse s = .next
      (trapped .readerOverrun (s.pos + headerCut k) (afterFields h (fieldOfBit k) s)) := by
  have hcut := fieldStart_fieldOfBit k
  have hcutk := headerCut_le k
  have hlast := lt_fieldStart_succ k
  rw [headerBits_length hwf] at hk
  have hj : fieldOfBit k < 27 + h.fields.numSubbands.toNat := by
    refine fieldStart_mono.reflect_lt ?_
    rw [fieldStart_quant]
    omega
  obtain ⟨more, hmore⟩ := headerPart_prefix h hj.le
  rw [headerBits_eq_headerPart hwf, ← hmore, List.take_append, headerPart_length,
    List.take_of_length_le (by rw [headerPart_length]; omega)] at hs
  have hrest : streamRest (afterFields h (fieldOfBit k) s) = more.take (k - fieldStart (fieldOfBit k)) := by
    rw [streamRest_of_pos (u := afterFields h (fieldOfBit k) s) rfl rfl rfl, hs,
      List.drop_left' (headerPart_length _ _)]
  have hshort : (more.take (k - fieldStart (fieldOfBit k))).length < headerFieldBits (headerField (fieldOfBit k)) := by
    rw [fieldStart_succ] at hlast
    rw [List.length_take]
    omega
  have hread := overruns_bitRead (headerFieldBits_le _) hshort _ hrest
  have hbefore (i : Nat) (hi : i < fieldOfBit k) : fieldFault h.fields b.dest.depth (i + 1) = none := by
    cases hfault : headerFault h.fields b.dest.depth with
    | none => exact fieldFault_of_headerFault_none hfault _
    | some c =>
      obtain ⟨f, cause, info⟩ := c
      obtain ⟨-, hf, -, hearlier⟩ := fieldFault_of_headerFault hfault
      have hkf := hpass f cause info hfault
      rw [← fieldStart_scalar hf] at hkf
      have hjf : fieldOfBit k < f := fieldStart_mono.reflect_lt (by omega)
      exact hearlier _ (by omega)
  have hstop := finishUnit_of_raised (parseHeader_stops hb fieldReader_readField hj
    (fun i hi => supplies_readField hs hi) hbefore (op_bind_of_error hread))
  rw [← hcut]
  exact hstop

end Sys2Proof.Machine
end

section
/-! THE STATEMENTS of HDR.PARSE (`44_channel_orchestrator.md` R195, R196), settled. -/

namespace Sys2Proof.Settled
open Sys2Proof.Machine

/-- Settles O57. The program of HDR.PARSE is a loop over the fields; what it leaves after each is known in closed
form. -/
theorem headerParsed : Obligations.HeaderParsed := by
  unfold Obligations.HeaderParsed
  refine ⟨fun s b h rest hb hlegal hs => ?_, fun s b h hb hlegal hroom => ?_⟩
  · rw [headerBits_eq_headerPart hlegal.2] at hs
    have hparse := parseHeader_passes hb fieldReader_readField (fun j hj => supplies_readField hs hj)
      (fieldFault_of_headerFault_none hlegal.1)
    rw [show exec .hdrParse s = _ from finishUnit_of_ok hparse]
    exact finish_afterFields h s
  · rw [exec_hdr_of_legal hb hlegal.1 hroom]
    exact finish_afterFields h s

/-- Settles O58: the loop over the fields stops at the first that fails its check or does not fit. -/
theorem headerTraps : Obligations.HeaderTraps := by
  unfold Obligations.HeaderTraps
  refine ⟨fun s b h k cause info rest => hdrParse_fails, fun s b h k hb hwf hk hpass hs => ?_⟩
  refine ⟨_, hdrParse_overruns hb hwf hk hpass hs, ?_, fun i hi => ?_⟩
  · simp only [afterFields, fieldStart_fieldOfBit, headerStored_headerCut]
  · rw [quantAt_afterFields hi, fieldStart_fieldOfBit]
    have hcut := fieldStart_le_headerCut (i := 27 + (i + 1)) (k := k)
    rw [fieldStart_quant] at hcut
    exact if_congr hcut rfl rfl

end Sys2Proof.Settled
end

section
/-! SUPPORT. BAND.FILL (`44_channel_orchestrator.md` R200) token by token: what a band holds after each, and where the
next one raises. -/

namespace Sys2Proof.Machine

variable {s t u : State} {p : Plane} {id n : Nat}

/-! ## A plane over the whole of its buffer -/

/-- The elements of `p` are those of buffer `id` in row-major order. -/
structure WholePlane (s : State) (p : Plane) (id : Nat) : Prop where
  buf : p.buf = some id
  base : p.base = 0
  stride : p.stride = p.width
  width : 1 ≤ p.width.toNat
  height : 1 ≤ p.height.toNat
  len : planeLen s p = p.width.toNat * p.height.toNat

theorem WholePlane.of_len_eq (h : WholePlane s p id) (hepoch : u.epoch = s.epoch)
    (hlen : bufLen u id = bufLen s id) : WholePlane u p id :=
  ⟨h.buf, h.base, h.stride, h.width, h.height, by
    rw [← h.len, planeLen_eq, planeLen_eq, hepoch, h.buf, Option.bind_some, Option.bind_some, hlen]⟩

theorem WholePlane.not_dangling (h : WholePlane s p id) : ¬dangling s p := by
  intro hd
  have hpos : 0 < p.width.toNat * p.height.toNat := Nat.mul_pos h.width h.height
  have hlen := h.len
  rcases hd with he | hn
  · rw [planeLen, if_neg he] at hlen
    omega
  · rw [planeLen, hn] at hlen
    simp only [Option.map_none, Option.getD_none, ite_self] at hlen
    omega

/-- Past the elements of the plane there is no address. -/
theorem WholePlane.coefAt_of_ge (h : WholePlane s p id) {e : Nat} (he : p.width.toNat * p.height.toNat ≤ e) :
    coefAt s id e = none := by
  obtain ⟨id', b, hl⟩ := liveBuffer_of_not_dangling h.not_dangling
  obtain ⟨-, hbuf, hb⟩ := liveBuffer_eq_some.mp hl
  obtain rfl : id = id' := by
    rw [h.buf] at hbuf
    exact Option.some.inj hbuf
  rw [← h.len, planeLen_live hl] at he
  rw [coefAt, hb, Option.bind_some, if_neg (Nat.not_lt.mpr he)]

/-- Element `i` in row-major order. -/
theorem WholePlane.addr (h : WholePlane s p id) (i : Nat) :
    planeAddr p (i % p.width.toNat) (i / p.width.toNat) = i := by
  rw [planeAddr, h.base, h.stride, Nat.zero_add, Nat.div_add_mod']

theorem WholePlane.planeWrite (h : WholePlane s p id) (hwf : storageWf s) {i : Nat}
    (hi : i < p.width.toNat * p.height.toNat) (v : Coef) :
    ∃ t, planeWrite p (i % p.width.toNat) (i / p.width.toNat) v s = .ok () t ∧ OnlyElements s t ∧
      ∀ id' e, coefAt t id' e = if id' = id ∧ e = i then some v else coefAt s id' e := by
  obtain ⟨t, ht, honly, hcoef⟩ := planeWrite_inside hwf h.not_dangling (Nat.mod_lt _ h.width)
    (Nat.div_lt_of_lt_mul hi) (by rwa [h.addr, h.len]) v
  refine ⟨t, ht, honly, fun id' e => ?_⟩
  rw [hcoef, setElement, h.buf, h.addr]
  simp only [Option.some.injEq, eq_comm (a := id)]

/-- The run of zeros before a token's value. -/
theorem WholePlane.planeWrite_zeros (h : WholePlane s p id) (hwf : storageWf s) {i r : Nat}
    (hr : i + r ≤ p.width.toNat * p.height.toNat) :
    ∃ t, forFrom i r (fun i => Machine.planeWrite p (i % p.width.toNat) (i / p.width.toNat) 0) s = .ok () t ∧
      OnlyElements s t ∧
      ∀ id' e, coefAt t id' e = if id' = id ∧ i ≤ e ∧ e < i + r then some 0 else coefAt s id' e := by
  refine forFrom_ok (fun k u => OnlyElements s u ∧
    ∀ id' e, coefAt u id' e = if id' = id ∧ i ≤ e ∧ e < i + k then some 0 else coefAt s id' e)
    (fun k u hk hu => ?_) ⟨.refl hwf, fun id' e => (if_neg (by omega)).symm⟩
  obtain ⟨honly, hcoef⟩ := hu
  obtain ⟨t, ht, htonly, htcoef⟩ :=
    (h.of_len_eq honly.epoch (honly.len id)).planeWrite honly.wf (show i + k < _ by omega) 0
  refine ⟨t, ht, honly.trans htonly, fun id' e => ?_⟩
  rw [htcoef, hcoef]
  by_cases hid : id' = id ∧ e = i + k
  · rw [if_pos hid, if_pos ⟨hid.1, by omega⟩]
  · rw [if_neg hid]
    exact if_congr (by omega) rfl rfl

/-! ## Tokens and the coefficients they stand for -/

theorem bandCoefs_append (a b : List (Nat × Int)) : bandCoefs (a ++ b) = bandCoefs a ++ bandCoefs b :=
  List.flatMap_append

theorem bandCoefs_token (token : Nat × Int) : bandCoefs [token] = List.replicate token.1 0 ++ [expandedCoef token.2] :=
  List.flatMap_singleton _ _

theorem bandCoefs_snoc_length (done : List (Nat × Int)) (token : Nat × Int) :
    (bandCoefs (done ++ [token])).length = (bandCoefs done).length + token.1 + 1 := by
  rw [bandCoefs_append, bandCoefs_token, List.length_append, List.length_append, List.length_replicate,
    List.length_singleton, Nat.add_assoc]

theorem length_le_bandCoefs (tokens : List (Nat × Int)) : tokens.length ≤ (bandCoefs tokens).length := by
  induction tokens using List.reverseRecOn with
  | nil => exact le_rfl
  | append_singleton done token ih =>
    rw [bandCoefs_snoc_length, List.length_append, List.length_singleton]
    omega

theorem tokensBits_append (a b : List (Nat × Int)) : tokensBits (a ++ b) = tokensBits a ++ tokensBits b :=
  List.flatMap_append

theorem tokensBits_token (token : Nat × Int) : tokensBits [token] = tokenBits token.1 token.2 :=
  List.flatMap_singleton _ _

theorem tokenBits_ne_nil (run : Nat) (value : Int) : tokenBits run value ≠ [] := by
  simp [tokenBits, valueBits_ne_nil]

/-- The coefficients one token more brings: its run reads 0, its value reads expanded. -/
theorem bandCoefs_snoc_getElem? (done : List (Nat × Int)) (token : Nat × Int) (k : Nat) :
    (bandCoefs (done ++ [token]))[(bandCoefs done).length + k]? =
      if k < token.1 then some 0 else if k = token.1 then some (expandedCoef token.2) else none := by
  rw [bandCoefs_append, bandCoefs_token, List.getElem?_append_right (Nat.le_add_right _ _), Nat.add_sub_cancel_left]
  rcases Nat.lt_trichotomy k token.1 with hk | rfl | hk
  · rw [List.getElem?_append_left (by simpa using hk), List.getElem?_replicate, if_pos hk, if_pos hk]
  · simp
  · rw [List.getElem?_eq_none (by simpa using hk), if_neg (by omega), if_neg (by omega)]

theorem bandCoefs_snoc_getElem?_of_lt (done : List (Nat × Int)) (token : Nat × Int) {e : Nat}
    (he : e < (bandCoefs done).length) : (bandCoefs (done ++ [token]))[e]? = (bandCoefs done)[e]? := by
  rw [bandCoefs_append, List.getElem?_append_left he]

/-! ## The state after some tokens -/

/-- BAND.FILL started in `s` on buffer `id` has placed the tokens `done` and no more. -/
structure Placed (s : State) (id : Nat) (done : List (Nat × Int)) (u : State) : Prop where
  rest : u = { afterTokens done 0 (!done.isEmpty) s with bufs := u.bufs }
  len : ∀ id', bufLen u id' = bufLen s id'
  wf : storageWf u
  coef : ∀ id' e, coefAt u id' e =
    if id' = id ∧ e < (bandCoefs done).length then (bandCoefs done)[e]? else coefAt s id' e

theorem Placed.nil (hwf : storageWf s) (id : Nat) : Placed s id [] s :=
  ⟨rfl, fun _ => rfl, hwf, fun _ _ => (if_neg (by simp [bandCoefs])).symm⟩

theorem Placed.streamRest {done : List (Nat × Int)} {rest : List Bool} (h : Placed s id done u)
    (hs : streamRest s = tokensBits done ++ rest) : streamRest u = rest := by
  rw [streamRest_of_pos (s := s) (k := (tokensBits done).length) (by rw [h.rest]; rfl) (by rw [h.rest]; rfl)
    (by rw [h.rest]; rfl), hs, List.drop_left]

theorem Placed.tableLegal {done : List (Nat × Int)} (h : Placed s id done u) (hs : tableLegal s) : tableLegal u := by
  obtain ⟨hlen, hvalid⟩ := hs
  have hlogt : u.logt = if !done.isEmpty then logTable else s.logt := by rw [h.rest]; rfl
  have hbuilt : u.logtValid = (!done.isEmpty || s.logtValid) := by rw [h.rest]; rfl
  unfold Machine.tableLegal
  rw [hlogt, hbuilt]
  cases done with
  | nil => exact ⟨hlen, hvalid⟩
  | cons token done => exact ⟨length_logTable, fun _ => rfl⟩

theorem Placed.wholePlane {done : List (Nat × Int)} (h : Placed s id done u) (hp : WholePlane s p id) :
    WholePlane u p id :=
  hp.of_len_eq (by rw [h.rest]; rfl) (h.len id)

theorem Placed.fillKept {done : List (Nat × Int)} (h : Placed s id done u) : fillKept s u id done :=
  ⟨fun e he => by rw [h.coef, if_pos ⟨rfl, he⟩], fun id' e hid => by rw [h.coef, if_neg fun hc => hid hc.1]⟩

/-- Past the elements placed the band is as it was. -/
theorem Placed.coef_of_ge {done : List (Nat × Int)} (h : Placed s id done u) {e : Nat}
    (he : (bandCoefs done).length ≤ e) : coefAt u id e = coefAt s id e := by
  rw [h.coef, if_neg fun hc => Nat.not_lt.mpr he hc.2]

theorem bufLen_setLogt (table : List Coef) (s : State) (id : Nat) : bufLen (setLogt table s) id = bufLen s id := rfl

theorem coefAt_setLogt (table : List Coef) (s : State) (id e : Nat) :
    coefAt (setLogt table s) id e = coefAt s id e := rfl

theorem storageWf_setLogt (table : List Coef) (s : State) : storageWf (setLogt table s) ↔ storageWf s := Iff.rfl

/-! ## One token -/

section
variable {done : List (Nat × Int)} {run : Nat} {value : Int}

/-- The token at POS is read, and its run checked. -/
theorem placeToken_read (hrun : run ≤ 8190) (hmag : value.natAbs ≤ 8190) {rest : List Bool}
    (hs : streamRest u = tokenBits run value ++ rest) (p : Plane) (n i : Nat) :
    placeToken p n i u = (do
      failIf (run + 1 > n - i) .runOverflow run
      forFrom i run fun i => planeWrite p (i % p.width.toNat) (i / p.width.toNat) 0
      let coef ← logDecode value
      planeWrite p ((i + run) % p.width.toNat) ((i + run) / p.width.toNat) (BitVec.ofInt 16 coef)
      modify (setSeqIdx (i + run + 1))
      pure (i + run + 1)) (advance (tokenBits run value).length u) :=
  op_bind_of_ok (reads_readToken ⟨hrun, hmag⟩ u (.of_streamRest hs (tokenBits_ne_nil run value)))

/-- A token whose run fits: the state in which its value is expanded. -/
theorem placeToken_fits (hp : WholePlane u p id) (hwf : storageWf u) (hrun : run ≤ 8190) (hmag : value.natAbs ≤ 8190)
    {rest : List Bool} (hs : streamRest u = tokenBits run value ++ rest) {i : Nat}
    (hfit : i + run + 1 ≤ p.width.toNat * p.height.toNat) :
    ∃ t, OnlyElements (advance (tokenBits run value).length u) t ∧
      (∀ id' e, coefAt t id' e = if id' = id ∧ i ≤ e ∧ e < i + run then some 0 else coefAt u id' e) ∧
      placeToken p (p.width.toNat * p.height.toNat) i u = (do
        let coef ← logDecode value
        planeWrite p ((i + run) % p.width.toNat) ((i + run) / p.width.toNat) (BitVec.ofInt 16 coef)
        modify (setSeqIdx (i + run + 1))
        pure (i + run + 1)) t := by
  obtain ⟨t, ht, honly, hcoef⟩ :=
    (hp.of_len_eq (u := advance (tokenBits run value).length u) rfl rfl).planeWrite_zeros hwf
      (show i + run ≤ _ by omega)
  refine ⟨t, honly, hcoef, ?_⟩
  rw [placeToken_read hrun hmag hs, op_bind_of_ok (failIf_neg (by omega) _ _ _), op_bind_of_ok ht]

/-- The registers after one token more. -/
theorem afterTokens_snoc (done : List (Nat × Int)) (token : Nat × Int) (b : Bool) (s : State) :
    setSeqIdx ((bandCoefs done).length + token.1 + 1)
        (setLogt logTable (advance (tokenBits token.1 token.2).length (afterTokens done 0 b s))) =
      afterTokens (done ++ [token]) 0 true s := by
  have hpos : s.pos + (tokensBits done).length + 0 + (tokenBits token.1 token.2).length =
      s.pos + (tokensBits (done ++ [token])).length + 0 := by
    rw [tokensBits_append, tokensBits_token, List.length_append]
    omega
  have happend : done ++ [token] ≠ [] := by simp
  unfold afterTokens
  generalize logTable = table
  rw [if_neg happend, if_pos rfl, ← hpos, bandCoefs_snoc_length]
  split <;> rfl

/-- A legal token that fits is placed. -/
theorem Placed.token (h : Placed s id done u) (hp : WholePlane s p id) (htable : Machine.tableLegal s)
    (hlegal : tokenLegal (run, value)) {rest : List Bool} (hs : Machine.streamRest u = tokenBits run value ++ rest)
    (hfit : (bandCoefs done).length + run + 1 ≤ p.width.toNat * p.height.toNat) :
    ∃ t, placeToken p (p.width.toNat * p.height.toNat) (bandCoefs done).length u =
        .ok (bandCoefs (done ++ [(run, value)])).length t ∧
      Placed s id (done ++ [(run, value)]) t := by
  obtain ⟨hrun, hmag⟩ : run ≤ 8190 ∧ value.natAbs ≤ 4095 := hlegal
  obtain ⟨v, honly, hzeros, hplace⟩ :=
    placeToken_fits (h.wholePlane hp) h.wf hrun (hmag.trans (by decide)) hs hfit
  have hv : v = { advance (tokenBits run value).length u with bufs := v.bufs } := honly.rest
  have hvtable : Machine.tableLegal v := by
    have hu := h.tableLegal htable
    rw [hv]
    exact hu
  have hepoch : (setLogt logTable v).epoch = u.epoch := by
    rw [setLogt_epoch]
    exact honly.epoch
  have hvp : WholePlane (setLogt logTable v) p id :=
    (h.wholePlane hp).of_len_eq hepoch ((bufLen_setLogt _ v id).trans (honly.len id))
  obtain ⟨t, ht, htonly, hcoef⟩ := hvp.planeWrite ((storageWf_setLogt _ v).mpr honly.wf)
    (show (bandCoefs done).length + run < _ by omega) (expandedCoef value)
  refine ⟨setSeqIdx ((bandCoefs done).length + run + 1) t, ?_, ?_, fun id' => ?_, htonly.wf, fun id' e => ?_⟩
  · rw [hplace, op_bind_of_ok (logDecode_legal hvtable hmag), ← expandedCoef, op_bind_of_ok ht,
      op_bind_of_ok (op_modify _ _), op_pure, bandCoefs_snoc_length]
  · rw [show (!(done ++ [(run, value)]).isEmpty) = true by simp, ← afterTokens_snoc done (run, value) (!done.isEmpty) s]
    have hrest := htonly.rest
    rw [hv, h.rest] at hrest
    rw [hrest]
    rfl
  · calc bufLen (setSeqIdx ((bandCoefs done).length + run + 1) t) id'
      _ = bufLen (setLogt logTable v) id' := htonly.len id'
      _ = bufLen u id' := (bufLen_setLogt _ v id').trans (honly.len id')
      _ = bufLen s id' := h.len id'
  · refine (hcoef id' e).trans ?_
    rw [coefAt_setLogt, hzeros, h.coef, bandCoefs_snoc_length]
    by_cases hid : id' = id
    · subst hid
      simp only [true_and]
      rcases Nat.lt_or_ge e (bandCoefs done).length with he | he
      · rw [if_neg (by omega), if_neg (by omega), if_pos he, if_pos (by omega), bandCoefs_snoc_getElem?_of_lt _ _ he]
      · obtain ⟨k, rfl⟩ := Nat.exists_eq_add_of_le he
        rw [bandCoefs_snoc_getElem?]
        rcases Nat.lt_trichotomy k run with hk | rfl | hk
        · rw [if_neg (by omega), if_pos (by omega), if_pos (by omega), if_pos hk]
        · rw [if_pos rfl, if_pos (by omega), if_neg (by omega), if_pos rfl]
        · rw [if_neg (by omega), if_neg (by omega), if_neg (by omega), if_neg (by omega)]
    · simp only [hid, false_and, if_false]

/-- Where no token starts, the token's own error is raised. -/
theorem readToken_tokenFault {tail : List Bool} {k : Nat} {cause : Cause} (hfault : tokenFault tail k cause)
    (hs : streamRest u = tail) : readToken u = raisedAt cause k u := by
  rcases hfault with ⟨rfl, rfl, rest, rfl⟩ | ⟨rfl, run, rest, hrun, rfl, rfl⟩ |
    ⟨rfl, run, value, j, hrun, hmag, hj, rfl, rfl⟩
  · exact malformed_readToken_run u (.of_streamRest hs (by simp))
  · have hraise := malformed_readToken_magnitude hrun u (.of_streamRest hs (by simp))
    rwa [List.length_append, List.length_replicate] at hraise
  · exact overruns_readToken ⟨hrun, hmag⟩ hj u hs

/-- A token that stands for more elements than are left. -/
theorem placeToken_runOverflow (hrun : run ≤ 8190) (hmag : value.natAbs ≤ 8190) {rest : List Bool}
    (hs : streamRest u = tokenBits run value ++ rest) {i : Nat} (hover : n < i + run + 1) :
    placeToken p n i u =
      .error .raised (takeError .runOverflow run (advance (tokenBits run value).length u)) := by
  rw [placeToken_read hrun hmag hs]
  exact op_bind_of_error (failIf_pos (by omega) _ _ _)

/-- A token whose value is no index of the table: its run is written, then its expansion raises. -/
theorem Placed.logIndex (h : Placed s id done u) (hp : WholePlane s p id) (htable : Machine.tableLegal s)
    (hrun : run ≤ 8190) (hmag : value.natAbs ≤ 8190) (hindex : 4095 < value.natAbs) {rest : List Bool}
    (hs : Machine.streamRest u = tokenBits run value ++ rest)
    (hfit : (bandCoefs done).length + run + 1 ≤ p.width.toNat * p.height.toNat) :
    ∃ t, placeToken p (p.width.toNat * p.height.toNat) (bandCoefs done).length u =
        .error .raised (takeError .logIndex value.natAbs t) ∧
      t = { afterTokens done (tokenBits run value).length true s with bufs := t.bufs } ∧ Machine.fillKept s t id done ∧
      ∀ e, (bandCoefs done).length + run ≤ e → coefAt t id e = coefAt s id e := by
  obtain ⟨v, honly, hzeros, hplace⟩ := placeToken_fits (h.wholePlane hp) h.wf hrun hmag hs hfit
  have hv : v = { advance (tokenBits run value).length u with bufs := v.bufs } := honly.rest
  have hvtable : Machine.tableLegal v := by
    have hu := h.tableLegal htable
    rw [hv]
    exact hu
  refine ⟨setLogt logTable v, ?_, ?_, ⟨fun e he => ?_, fun id' e hid => ?_⟩, fun e he => ?_⟩
  · rw [hplace, op_bind_of_error (logDecode_index hvtable hindex)]
  · rw [h.rest] at hv
    unfold afterTokens at hv ⊢
    generalize logTable = table at hv ⊢
    rw [hv]
    rfl
  · rw [coefAt_setLogt, hzeros, if_neg (by omega), h.coef, if_pos ⟨rfl, he⟩]
  · rw [coefAt_setLogt, hzeros, if_neg fun hc => hid hc.1, h.coef, if_neg fun hc => hid hc.1]
  · rw [coefAt_setLogt, hzeros, if_neg (by omega), h.coef_of_ge (by omega)]

/-! ## The loop over the tokens -/

/-- Legal tokens that fit are placed one after the other. -/
theorem fillFrom_placed (hwf : storageWf s) (hp : WholePlane s p id) (htable : tableLegal s)
    {tokens : List (Nat × Int)} (hlegal : ∀ t ∈ tokens, tokenLegal t)
    (hfit : (bandCoefs tokens).length ≤ p.width.toNat * p.height.toNat) {rest : List Bool}
    (hs : streamRest s = tokensBits tokens ++ rest) (rounds : Nat) :
    ∃ t, Placed s id tokens t ∧
      fillFrom p (p.width.toNat * p.height.toNat) (rounds + tokens.length) 0 s =
        fillFrom p (p.width.toNat * p.height.toNat) rounds (bandCoefs tokens).length t := by
  induction tokens using List.reverseRecOn generalizing rounds rest with
  | nil => exact ⟨s, .nil hwf id, rfl⟩
  | append_singleton done token ih =>
    obtain ⟨run, value⟩ := token
    rw [bandCoefs_snoc_length] at hfit
    rw [tokensBits_append, tokensBits_token, List.append_assoc] at hs
    obtain ⟨u, hu, hloop⟩ := ih (fun t ht => hlegal t (List.mem_append_left _ ht)) (by omega) hs (rounds + 1)
    obtain ⟨t, ht, hplaced⟩ := hu.token hp htable (hlegal _ List.mem_concat_self) (hu.streamRest hs) hfit
    refine ⟨t, hplaced, ?_⟩
    rw [List.length_append, List.length_singleton, Nat.add_comm done.length, ← Nat.add_assoc, hloop, fillFrom,
      if_pos (by omega), op_bind_of_ok ht]

/-- The loop ends where the band is full. -/
theorem fillFrom_full (p : Plane) (n rounds : Nat) (s : State) : fillFrom p n rounds n s = .ok () s := by
  cases rounds with
  | zero => rfl
  | succ rounds => rw [fillFrom, if_neg (Nat.lt_irrefl n), op_pure]

theorem fillFrom_raised {rounds i : Nat} (hi : i < n) (hrounds : rounds ≠ 0)
    (hraised : placeToken p n i u = .error .raised t) : fillFrom p n rounds i u = .error .raised t := by
  obtain ⟨r, rfl⟩ := Nat.exists_eq_succ_of_ne_zero hrounds
  rw [fillFrom, if_pos hi, op_bind_of_error hraised]

end

/-! ## BAND.FILL -/

/-- The plane BAND.FILL writes. -/
abbrev fillPlane (s : State) (lv : LevelRef) (b : Nat) : Plane :=
  { (bandAt (levelAt s lv.c.toNat lv.l.toNat) b).plane with owned := false }

section
variable {lv : LevelRef} {b : Nat}

/-- The band of a level in use is a plane over the whole of its buffer. -/
theorem wholePlane_fillPlane (hready : bandReady s lv b) (hlegal : levelLegal s (levelAt s lv.c.toNat lv.l.toNat))
    (hid : (bandAt (levelAt s lv.c.toNat lv.l.toNat) b).plane.buf = some id) :
    WholePlane s (fillPlane s lv b) id ∧
      (fillPlane s lv b).width = (levelAt s lv.c.toNat lv.l.toNat).width ∧
      (fillPlane s lv b).height = (levelAt s lv.c.toNat lv.l.toNat).height := by
  obtain ⟨-, -, hi, hb⟩ := hready
  have huse := (levelLegal_iff_inUse hi).mp hlegal
  obtain ⟨-, hplane, hlen⟩ := huse.declared b hb
  obtain ⟨hw, hh⟩ := huse.band_size hb
  obtain ⟨-, hw1, hh1, -⟩ := huse.band_planeLegal hb
  refine ⟨⟨hid, ?_, ?_, hw1, hh1, ?_⟩, hw, hh⟩
  · rw [fillPlane, hplane]
  · rw [fillPlane, hplane]
  · rw [show (fillPlane s lv b).width = _ from hw, show (fillPlane s lv b).height = _ from hh, ← hlen]
    rfl

/-- The checks of BAND.FILL pass, and the loop over the tokens begins. -/
theorem fillBand_ready (hready : bandReady s lv b) (hlegal : levelLegal s (levelAt s lv.c.toNat lv.l.toNat)) :
    fillBand lv b s = (do
      fillFrom (fillPlane s lv b) ((fillPlane s lv b).width.toNat * (fillPlane s lv b).height.toNat)
        ((fillPlane s lv b).width.toNat * (fillPlane s lv b).height.toNat) 0
      levelSetValid lv b) s :=
  op_bind_of_ok (levelBandPlane_ready hready hlegal)

/-- Tokens that stand for exactly the elements of a band. -/
theorem fillBand_placed {tokens : List (Nat × Int)} {rest : List Bool} (hwf : storageWf s) (htable : tableLegal s)
    (hready : bandReady s lv b) (hlegal : levelLegal s (levelAt s lv.c.toNat lv.l.toNat))
    (hid : (bandAt (levelAt s lv.c.toNat lv.l.toNat) b).plane.buf = some id)
    (htokens : ∀ t ∈ tokens, tokenLegal t)
    (hcount : (bandCoefs tokens).length =
      (levelAt s lv.c.toNat lv.l.toNat).width.toNat * (levelAt s lv.c.toNat lv.l.toNat).height.toNat)
    (hs : streamRest s = tokensBits tokens ++ rest) :
    ∃ t, Placed s id tokens t ∧ fillBand lv b s =
      .ok () (setLevel lv.c.toNat lv.l.toNat (setValidBit b (levelAt s lv.c.toNat lv.l.toNat)) t) := by
  obtain ⟨hp, hw, hh⟩ := wholePlane_fillPlane hready hlegal hid
  rw [← hw, ← hh] at hcount
  obtain ⟨r, hr⟩ := Nat.exists_eq_add_of_le' (length_le_bandCoefs tokens)
  obtain ⟨t, hplaced, hloop⟩ := fillFrom_placed hwf hp htable htokens hcount.le hs r
  rw [← hr, hcount, fillFrom_full] at hloop
  have hct : t.ct = s.ct := by rw [hplaced.rest]; rfl
  have hlevels (c l : Nat) : levelAt t c l = levelAt s c l := by rw [levelAt, channelAt, hct]; rfl
  have htready : bandReady t lv b := by rwa [bandReady, hlevels]
  refine ⟨t, hplaced, ?_⟩
  rw [fillBand_ready hready hlegal, op_bind_of_ok hloop, levelSetValid, op_bind_of_ok (fetchBandLevel_ready htready),
    hlevels]
  rfl

/-- Where BAND.FILL can start, the table is legal and the band is a plane over the whole of its buffer. -/
theorem wholePlane_of_fillReady {done : List (Nat × Int)} (hfill : fillReady s lv b id done) :
    tableLegal s ∧ WholePlane s (fillPlane s lv b) id ∧
      (fillPlane s lv b).width = (levelAt s lv.c.toNat lv.l.toNat).width ∧
      (fillPlane s lv b).height = (levelAt s lv.c.toNat lv.l.toNat).height := by
  obtain ⟨-, htable, hready, hlegal, hid, -, -⟩ := hfill
  exact ⟨htable, wholePlane_fillPlane hready hlegal hid⟩

/-- BAND.FILL where the token after some that fit raises. -/
theorem fillBand_raised {done : List (Nat × Int)} {tail : List Bool} (hfill : fillReady s lv b id done)
    (hs : streamRest s = tokensBits done ++ tail) :
    ∃ u, Placed s id done u ∧ streamRest u = tail ∧
      ∀ t, placeToken (fillPlane s lv b) ((fillPlane s lv b).width.toNat * (fillPlane s lv b).height.toNat)
        (bandCoefs done).length u = .error .raised t → fillBand lv b s = .error .raised t := by
  obtain ⟨hwf, htable, hready, hlegal, hid, htokens, hcount⟩ := hfill
  obtain ⟨hp, hw, hh⟩ := wholePlane_fillPlane hready hlegal hid
  rw [← hw, ← hh] at hcount
  obtain ⟨r, hr⟩ := Nat.exists_eq_add_of_le' ((length_le_bandCoefs done).trans hcount.le)
  obtain ⟨u, hplaced, hloop⟩ := fillFrom_placed hwf hp htable htokens hcount.le hs r
  rw [← hr] at hloop
  refine ⟨u, hplaced, hplaced.streamRest hs, fun t hraised => ?_⟩
  have hdone := length_le_bandCoefs done
  rw [fillBand_ready hready hlegal]
  exact op_bind_of_error (hloop.trans (fillFrom_raised hcount (by omega) hraised))

end

end Sys2Proof.Machine
end

section
/-! THE STATEMENTS of BAND.FILL (`44_channel_orchestrator.md` R200), settled. -/

namespace Sys2Proof.Settled
open Sys2Proof.Machine

/-- Settles O59. Each token keeps the invariant `Placed`; a band that is full ends the loop. -/
theorem bandFillResult : Obligations.BandFillResult := by
  unfold Obligations.BandFillResult
  intro s lv b id tokens rest hwf htable hready hlegal hid htokens hcount hs
  obtain ⟨t, hplaced, hfill⟩ := fillBand_placed hwf htable hready hlegal hid htokens hcount hs
  obtain ⟨hp, hw, hh⟩ := wholePlane_fillPlane hready hlegal hid
  obtain ⟨hc, hl, hi, hb⟩ := hready
  rw [← hw, ← hh] at hcount
  have hne : tokens ≠ [] := by
    rintro rfl
    exact (Nat.mul_pos hp.width hp.height).ne hcount
  have hrest := hplaced.rest
  rw [afterTokens, if_neg hne, show (!tokens.isEmpty) = true by simpa using hne] at hrest
  have hct : t.ct = s.ct := by rw [hplaced.rest]; rfl
  have hlevels (c l : Nat) : levelAt t c l = levelAt s c l := by rw [levelAt, channelAt, hct]; rfl
  have hprescale (c l : Nat) : prescaleAt t c l = prescaleAt s c l := by rw [prescaleAt, channelAt, hct]; rfl
  have hsame (lev : Level) : levelAt (setLevel lv.c.toNat lv.l.toNat lev t) lv.c.toNat lv.l.toNat = lev :=
    levelAt_setLevel_same (by omega) (by omega) lev t
  refine ⟨_, finishUnit_of_ok hfill, ?_, ?_, fun k hk => ?_, fun c l hcl => ?_, fun c l => ?_, fun e => ?_,
    fun id' e hne => ?_⟩
  · generalize logTable = table at hrest ⊢
    rw [hrest]
    rfl
  · exact hsame _ ▸ rfl
  · exact (congrArg (validBit · k) (hsame _)).trans (validBit_setValidBit _ _ hk)
  · exact (levelAt_setLevel_ne hcl _ t).trans (hlevels c l)
  · exact (prescaleAt_setLevel _ _ c l _ t).trans (hprescale c l)
  · refine (hplaced.coef id e).trans ?_
    split
    next => rfl
    next he =>
      have hge : (bandCoefs tokens).length ≤ e := Nat.le_of_not_lt fun h => he ⟨rfl, h⟩
      rw [hp.coefAt_of_ge (hcount ▸ hge), List.getElem?_eq_none hge]
  · exact (hplaced.coef id' e).trans (if_neg fun h => hne h.1)

/-- Settles O60: the tokens before keep `Placed`, and the next one raises in its reader, its run or its expansion. -/
theorem bandFillTraps : Obligations.BandFillTraps := by
  unfold Obligations.BandFillTraps
  refine ⟨fun s lv b h => ?_, fun s lv b hc hl hi => ?_, fun s lv b hc hl hi hb => ?_,
    fun s lv b id done tail k cause hfill hs hfault => ?_,
    fun s lv b id done run value rest hfill hrun hmag hs hover => ?_,
    fun s lv b id done run value rest hfill hrun hmag hs hfit hindex => ?_⟩
  · exact finishUnit_of_raised (op_bind_of_error (op_bind_of_error (fetchBandLevel_levelIndex h)))
  · exact finishUnit_of_raised (op_bind_of_error (op_bind_of_error (fetchBandLevel_levelState hc hl hi)))
  · exact finishUnit_of_raised (op_bind_of_error (op_bind_of_error (fetchBandLevel_bandIndex hc hl hi hb)))
  · obtain ⟨u, hplaced, htail, hraised⟩ := fillBand_raised hfill hs
    have hpos : u.pos = s.pos + (tokensBits done).length := by rw [hplaced.rest]; rfl
    refine ⟨advance k u, ?_, ?_, hplaced.fillKept, fun e he => hplaced.coef_of_ge he⟩
    · rw [← hpos]
      exact finishUnit_of_raised (hraised _ (op_bind_of_error (readToken_tokenFault hfault htail)))
    · rw [hplaced.rest]
      rfl
  · obtain ⟨-, -, hw, hh⟩ := wholePlane_of_fillReady hfill
    rw [List.append_assoc] at hs
    rw [← hw, ← hh] at hover
    obtain ⟨u, hplaced, htail, hraised⟩ := fillBand_raised hfill hs
    refine ⟨advance (tokenBits run value).length u, ?_, ?_, hplaced.fillKept, fun e he => hplaced.coef_of_ge he⟩
    · exact finishUnit_of_raised (hraised _ (placeToken_runOverflow hrun hmag htail hover))
    · rw [hplaced.rest]
      rfl
  · obtain ⟨htable, hp, hw, hh⟩ := wholePlane_of_fillReady hfill
    rw [List.append_assoc] at hs
    rw [← hw, ← hh] at hfit
    obtain ⟨u, hplaced, htail, hraised⟩ := fillBand_raised hfill hs
    obtain ⟨t, ht, hrest⟩ := hplaced.logIndex hp htable hrun hmag hindex htail hfit
    exact ⟨t, finishUnit_of_raised (hraised _ ht), hrest⟩

end Sys2Proof.Settled
end

section
/-! SUPPORT. What a legal header says of the sizes of the levels (`44_channel_orchestrator.md` R196, R197, R199), and
the coefficients a legal stream stands for. -/

namespace Sys2Proof.Machine

variable {s t u : State}

/-- What one DECODE is to do: the stream's header and tokens, the buffers bound, the place of the region, the prescale
registers. -/
structure Job where
  head : HeaderWord
  tokens : Nat → Nat → List (Nat × Int)
  bound : Binding
  offx : U16
  offy : U16
  prescale : Nat → Nat → BitVec 4

namespace Job

abbrev channels (J : Job) : Nat := J.head.fields.numChannels.toNat
abbrev levels (J : Job) : Nat := J.head.fields.numWavelets.toNat
abbrev bands (J : Job) : Nat := J.head.fields.numSubbands.toNat

/-- The width of a band of level `l` (R197). -/
abbrev width (J : Job) (l : Nat) : Nat := planeWidth J.head.fields / 2 ^ (l + 1)

/-- The height of a band of level `l` (R197). -/
abbrev height (J : Job) (l : Nat) : Nat := planeHeight J.head.fields / 2 ^ (l + 1)

/-- The stream is legal and its region inside the destination. -/
structure Legal (J : Job) : Prop where
  header : headerFault J.head.fields J.bound.dest.depth = none
  wf : J.head.wf
  body : bodyLegal J.head.fields J.tokens
  fitsWidth : J.offx.toNat + J.head.fields.imageWidth.toNat ≤ J.bound.dest.w.toNat
  fitsHeight : J.offy.toNat + J.head.fields.imageHeight.toNat ≤ J.bound.dest.h.toNat

end Job

/-! ## Sizes -/

/-- The header's fields, as its checks leave them (R196). -/
structure HeaderSizes (h : HdrFields) : Prop where
  channels : 1 ≤ h.numChannels.toNat ∧ h.numChannels.toNat ≤ 4
  levels : 1 ≤ h.numWavelets.toNat ∧ h.numWavelets.toNat ≤ 3
  bands : h.numSubbands.toNat = 3 * h.numWavelets.toNat + 1
  pattern : h.patternWidth.toNat * h.patternHeight.toNat = h.numChannels.toNat
  patternWidth : 1 ≤ h.patternWidth.toNat
  patternHeight : 1 ≤ h.patternHeight.toNat
  planeWidth : 1 ≤ planeWidth h
  planeHeight : 1 ≤ planeHeight h
  widthDvd : 2 ^ h.numWavelets.toNat ∣ Machine.planeWidth h
  heightDvd : 2 ^ h.numWavelets.toNat ∣ Machine.planeHeight h
  bits : h.bitsPerComponent.toNat ≤ 16

theorem headerSizes {h : HdrFields} {depth : Nat} (hf : headerFault h depth = none) : HeaderSizes h := by
  rw [headerFault, Option.map_eq_none_iff, List.find?_eq_none] at hf
  simp only [headerChecks, List.forall_mem_cons, decide_eq_true_eq, not_not] at hf
  obtain ⟨hnc, -, hnw, hnsb, hw, hh, hpw, hph, hpat, -, hbpc, -⟩ := hf
  have hdiv {n p : Nat} (hn : n ≠ 0) (hp : 1 ≤ p) (hmod : n % p = 0) : 1 ≤ n / p :=
    Nat.div_pos (Nat.le_of_dvd (Nat.pos_of_ne_zero hn) (Nat.dvd_of_mod_eq_zero hmod)) hp
  exact ⟨hnc, hnw, hnsb, hpat, hpw.1, hph.1, hdiv hw hpw.1 hpw.2.1, hdiv hh hph.1 hph.2.1,
    Nat.dvd_of_mod_eq_zero hpw.2.2, Nat.dvd_of_mod_eq_zero hph.2.2, hbpc.2.1⟩

/-- Halving a size that is divisible far enough loses nothing. -/
theorem two_mul_div_two_pow {a n l : Nat} (ha : 2 ^ n ∣ a) (hl : l < n) : 2 * (a / 2 ^ (l + 1)) = a / 2 ^ l := by
  obtain ⟨q, rfl⟩ := (pow_dvd_pow 2 (Nat.succ_le_of_lt hl)).trans ha
  rw [Nat.mul_div_cancel_left q (by positivity), pow_succ, Nat.mul_assoc, Nat.mul_div_cancel_left _ (by positivity)]

theorem one_le_div_two_pow {a n l : Nat} (ha : 2 ^ n ∣ a) (ha0 : 1 ≤ a) (hl : l < n) : 1 ≤ a / 2 ^ (l + 1) :=
  Nat.div_pos (Nat.le_of_dvd ha0 ((pow_dvd_pow 2 (Nat.succ_le_of_lt hl)).trans ha)) (by positivity)

theorem planeWidth_lt (h : HdrFields) : planeWidth h < 65536 := (Nat.div_le_self _ _).trans_lt h.imageWidth.isLt

theorem planeHeight_lt (h : HdrFields) : planeHeight h < 65536 := (Nat.div_le_self _ _).trans_lt h.imageHeight.isLt

namespace Job

variable {J : Job} {c l b : Nat}

theorem Legal.sizes (hJ : J.Legal) : HeaderSizes J.head.fields := headerSizes hJ.header

theorem width_lt (J : Job) (l : Nat) : J.width l < 65536 := (Nat.div_le_self _ _).trans_lt (planeWidth_lt _)

theorem height_lt (J : Job) (l : Nat) : J.height l < 65536 := (Nat.div_le_self _ _).trans_lt (planeHeight_lt _)

theorem Legal.one_le_width (hJ : J.Legal) (hl : l < J.levels) : 1 ≤ J.width l :=
  one_le_div_two_pow hJ.sizes.widthDvd hJ.sizes.planeWidth hl

theorem Legal.one_le_height (hJ : J.Legal) (hl : l < J.levels) : 1 ≤ J.height l :=
  one_le_div_two_pow hJ.sizes.heightDvd hJ.sizes.planeHeight hl

/-- The bands of a level are half the size of those of the next finer one. -/
theorem Legal.two_mul_width (hJ : J.Legal) (hl : l + 1 < J.levels) : 2 * J.width (l + 1) = J.width l :=
  two_mul_div_two_pow hJ.sizes.widthDvd hl

theorem Legal.two_mul_height (hJ : J.Legal) (hl : l + 1 < J.levels) : 2 * J.height (l + 1) = J.height l :=
  two_mul_div_two_pow hJ.sizes.heightDvd hl

/-- The bands of the finest level are half the size of the channel. -/
theorem Legal.two_mul_width_zero (hJ : J.Legal) : 2 * J.width 0 = planeWidth J.head.fields := by
  rw [Job.width, two_mul_div_two_pow hJ.sizes.widthDvd hJ.sizes.levels.1, pow_zero, Nat.div_one]

theorem Legal.two_mul_height_zero (hJ : J.Legal) : 2 * J.height 0 = planeHeight J.head.fields := by
  rw [Job.height, two_mul_div_two_pow hJ.sizes.heightDvd hJ.sizes.levels.1, pow_zero, Nat.div_one]

/-! ## Subbands -/

/-- The first band of a level the stream codes: the lowpass band at the coarsest level only. -/
def first (J : Job) (l : Nat) : Nat := if l = J.levels - 1 then 0 else 1

/-- A coded band's place in the stream (R199). -/
theorem subbandOf_coded (hl : l < J.levels) (hb : J.first l ≤ b) :
    subbandOf J.levels l b = 3 * (J.levels - 1 - l) + b := by
  unfold subbandOf
  unfold first at hb
  split_ifs at hb ⊢ <;> omega

theorem Legal.subbandOf_lt (hJ : J.Legal) (hl : l < J.levels) (hf : J.first l ≤ b) (hb : b < 4) :
    subbandOf J.levels l b < J.bands := by
  have hbands : J.bands = 3 * J.levels + 1 := hJ.sizes.bands
  rw [subbandOf_coded hl hf]
  omega

/-- A coded band belongs to its level. -/
theorem subbandLevel_subbandOf (hl : l < J.levels) (hf : J.first l ≤ b) (hb : b < 4) :
    subbandLevel J.levels (subbandOf J.levels l b) = l := by
  rw [subbandOf_coded hl hf, subbandLevel]
  unfold first at hf
  split_ifs at hf <;> omega

/-- The tokens of a coded band are legal and stand for its elements. -/
theorem Legal.tokens (hJ : J.Legal) (hc : c < J.channels) (hl : l < J.levels) (hf : J.first l ≤ b) (hb : b < 4) :
    (∀ t ∈ J.tokens c (subbandOf J.levels l b), tokenLegal t) ∧
      (bandCoefs (J.tokens c (subbandOf J.levels l b))).length = J.width l * J.height l := by
  obtain ⟨hlegal, hcount⟩ := hJ.body c hc _ (hJ.subbandOf_lt hl hf hb)
  refine ⟨hlegal, hcount.trans ?_⟩
  rw [subbandSize, subbandLevel_subbandOf hl hf hb]

/-! ## Coefficients -/

/-- Element (x, y) of a band of channel `c` as the synthesis of level `l` finds it (R202). -/
def bandInt (J : Job) (c l b x y : Nat) : Int :=
  if b = 0 then
    lowpassValue J.head J.tokens (fun l => (J.prescale c l).toNat) c (J.levels - 1 - l) x y
  else codedValue J.head J.tokens c l b x y

/-- That element as it is stored. -/
def bandCoef (J : Job) (c l b x y : Nat) : Coef := BitVec.ofInt 16 (J.bandInt c l b x y)

/-- Element (x, y) of a coded band as the stream gives it, before its dequantization. -/
def codedCoef (J : Job) (c l b x y : Nat) : Coef :=
  (bandCoefs (J.tokens c (subbandOf J.levels l b))).getD (y * J.width l + x) 0

/-- The quantization value of a band. -/
def bandQuant (J : Job) (l b : Nat) : U16 := J.head.quant.getD (subbandOf J.levels l b) 0

/-- Nothing is lost where the element is stored. -/
theorem toInt_bandCoef (J : Job) (c l b x y : Nat) : (J.bandCoef c l b x y).toInt = J.bandInt c l b x y := by
  have hstored (v : Coef) : (BitVec.ofInt 16 v.toInt).toInt = v.toInt := by rw [BitVec.ofInt_toInt]
  unfold bandCoef bandInt
  split
  next => cases J.levels - 1 - l <;> exact hstored _
  next => exact hstored _

/-- A highpass band is dequantized. -/
theorem bandCoef_highpass (hb : b ≠ 0) (x y : Nat) :
    J.bandCoef c l b x y = dequantized (J.bandQuant l b) (J.codedCoef c l b x y) := by
  rw [bandCoef, bandInt, if_neg hb, codedValue, if_neg hb, BitVec.ofInt_toInt]
  rfl

/-- The coarsest lowpass band is coded. -/
theorem bandCoef_coarsest (J : Job) (c x y : Nat) :
    J.bandCoef c (J.levels - 1) 0 x y = J.codedCoef c (J.levels - 1) 0 x y := by
  rw [bandCoef, bandInt, if_pos rfl, Nat.sub_self, lowpassValue, codedValue, if_pos rfl, BitVec.ofInt_toInt]
  rfl

/-- The lowpass band of the next finer level is the narrowed, prescaled synthesis. -/
theorem bandCoef_finer (hl : l + 1 < J.levels) (x y : Nat) :
    J.bandCoef c l 0 x y =
      BitVec.ofInt 16 (synthAt (J.bandInt c (l + 1)) (J.width (l + 1)) (J.height (l + 1)) x y /
        2 ^ (J.prescale c (l + 1)).toNat) := by
  obtain ⟨k, hk⟩ : ∃ k, J.levels - 1 - l = k + 1 := ⟨J.levels - 1 - l - 1, by omega⟩
  have hlevel : J.levels - 1 - k = l + 1 := by omega
  have hk' : k = J.levels - 1 - (l + 1) := by omega
  rw [bandCoef, bandInt, if_pos rfl, hk, lowpassValue,
    show J.head.fields.numWavelets.toNat - 1 - k = l + 1 from hlevel, BitVec.ofInt_toInt]
  simp only [hk']
  rfl

/-- The sample of a channel. -/
theorem imageValue_eq (J : Job) (c X Y : Nat) :
    imageValue J.head J.tokens (fun l => (J.prescale c l).toNat) c X Y =
      max 0 (min (synthAt (J.bandInt c 0) (planeWidth J.head.fields / 2) (planeHeight J.head.fields / 2) X Y /
        2 ^ (J.prescale c 0).toNat) (2 ^ J.head.fields.bitsPerComponent.toNat - 1)) := rfl

/-! ## The bits left -/

/-- The bits of the subbands of channel `c` from `sb` on. -/
def bitsFrom (J : Job) (c sb : Nat) : List Bool :=
  (List.range' sb (J.bands - sb)).flatMap fun sb => tokensBits (J.tokens c sb)

/-- The bits of the channels from `c` on. -/
def channelsFrom (J : Job) (c : Nat) : List Bool :=
  (List.range' c (J.channels - c)).flatMap fun c => J.bitsFrom c 0

theorem bitsFrom_of_lt {sb : Nat} (hsb : sb < J.bands) :
    J.bitsFrom c sb = tokensBits (J.tokens c sb) ++ J.bitsFrom c (sb + 1) := by
  rw [bitsFrom, show J.bands - sb = J.bands - (sb + 1) + 1 by omega, List.range'_succ, List.flatMap_cons, bitsFrom]

theorem bitsFrom_bands (J : Job) (c : Nat) : J.bitsFrom c J.bands = [] := by
  rw [bitsFrom, Nat.sub_self]
  rfl

theorem channelsFrom_of_lt (hc : c < J.channels) : J.channelsFrom c = J.bitsFrom c 0 ++ J.channelsFrom (c + 1) := by
  rw [channelsFrom, show J.channels - c = J.channels - (c + 1) + 1 by omega, List.range'_succ, List.flatMap_cons,
    channelsFrom]

theorem channelsFrom_channels (J : Job) : J.channelsFrom J.channels = [] := by
  rw [channelsFrom, Nat.sub_self]
  rfl

theorem bodyBits_eq (J : Job) : bodyBits J.head.fields J.tokens = J.channelsFrom 0 := by
  simp only [bodyBits, channelsFrom, bitsFrom, Nat.sub_zero, List.range_eq_range']

end Job

end Sys2Proof.Machine
end

section
/-! SUPPORT. What a level holds while DECODE works on it (`44_channel_orchestrator.md` R202): its shape, its band
buffers, and what each operation on it leaves alone. -/

namespace Sys2Proof.Machine

variable {s t u : State} {J : Job} {c l b N j : Nat} {C : Nat → Nat → Nat → Coef} {W : List Piece}

/-! ## The registers DECODE works with -/

/-- What DECODE writes for a channel (R202). -/
def jobPieces : List Piece := .dest :: channelPieces

/-- The registers and stores as DECODE finds them after the header, and as it keeps them. -/
structure Running (J : Job) (u : State) : Prop where
  hdr : u.hdr = J.head.fields
  quant : ∀ i < J.bands, quantAt u i = J.head.quant.getD i 0
  binding : u.binding = some J.bound
  offx : u.offx = J.offx
  offy : u.offy = J.offy
  prescale : ∀ c l, prescaleAt u c l = J.prescale c l
  wf : storageWf u
  table : tableLegal u
  cursor : cursorLegal u

theorem Running.path (h : Running J u) (hp : Path W u t) (hW : W ⊆ jobPieces) : Running J t := by
  have hp := hp.mono hW
  have hf := hp.frame
  obtain ⟨hhdr, hquant⟩ := hf.hdr (by simp [jobPieces, channelPieces])
  obtain ⟨hx, hy⟩ := hf.offsets (by simp [jobPieces, channelPieces])
  refine ⟨hhdr.trans h.hdr, fun i hi => ?_, hf.binding.trans h.binding, hx.trans h.offx, hy.trans h.offy,
    fun c l => (hf.prescale (by simp [jobPieces, channelPieces]) c l).trans (h.prescale c l), ?_, ?_, ?_⟩
  · rw [quantAt, hquant]
    exact h.quant i hi
  · exact hp.keeps (fun _ _ _ _ hw => storageWf_write hw) h.wf
  · exact hp.keeps (fun k _ a b hw => tableLegal_invariant.write k a b hw) h.table
  · exact hp.keeps (fun k _ a b hw => cursorLegal_invariant.write k a b hw) h.cursor

/-- A table once built stays built. -/
theorem Path.logtValid (hp : Path W u t) (h : u.logtValid = true) : t.logtValid = true := by
  refine hp.keeps (I := fun a => a.logtValid = true) (fun k _ a b hw ha => ?_) h
  cases hw with
  | logt => exact setLogt_logtValid a logTable
  | _ => exact ha

/-- Without a read the same bits are left. -/
theorem Path.streamRest (hp : Path W u t) (hW : .pos ∉ W) : streamRest t = streamRest u := by
  have hf := hp.frame
  rw [streamRest_of_pos (s := u) (k := 0) (hf.pos hW) hf.binding hf.mem, List.drop_zero]

theorem Running.planeWidth_eq (h : Running J u) (hJ : J.Legal) : channelWidth u = planeWidth J.head.fields := by
  rw [← Machine.planeWidth_eq (h.hdr ▸ hJ.sizes.patternWidth), h.hdr]

theorem Running.planeHeight_eq (h : Running J u) (hJ : J.Legal) : channelHeight u = planeHeight J.head.fields := by
  have hph : 1 ≤ u.hdr.patternHeight.toNat := h.hdr ▸ hJ.sizes.patternHeight
  rw [← Machine.planeHeight_eq hph, h.hdr]

theorem Running.levelWidth_eq (h : Running J u) (hJ : J.Legal) (l : Nat) : levelWidth u l = J.width l := by
  rw [levelWidth, h.planeWidth_eq hJ]

theorem Running.levelHeight_eq (h : Running J u) (hJ : J.Legal) (l : Nat) : levelHeight u l = J.height l := by
  rw [levelHeight, h.planeHeight_eq hJ]

/-! ## A level and its band buffers -/

/-- A level of the job on buffers `N` to `N + 3`, its first `j` bands marked valid and quantized. -/
structure LevelShape (J : Job) (l N j epoch : Nat) (lev : Level) : Prop where
  init : lev.init = true
  numBands : lev.numBands = 4
  width : lev.width.toNat = J.width l
  height : lev.height.toNat = J.height l
  stride : lev.stride = lev.width
  plane : ∀ b < 4, (bandAt lev b).plane = ⟨some (N + b), 0, lev.width, lev.height, lev.width, true, epoch⟩
  valid : ∀ b < j, validBit lev b = true
  quant : ∀ b < j, 1 ≤ b → (bandAt lev b).quant = J.bandQuant l b

/-- Buffers `N` to `N + 3` are as long as a band of level `l`, and the first `j` hold the elements `C`. -/
structure BandsHold (J : Job) (l N j : Nat) (C : Nat → Nat → Nat → Coef) (u : State) : Prop where
  size : ∀ b < 4, ∀ e, (coefAt u (N + b) e).isSome = decide (e < J.width l * J.height l)
  elem : ∀ b < j, ∀ x < J.width l, ∀ y < J.height l, coefAt u (N + b) (y * J.width l + x) = some (C b x y)

/-- Level (c, l) is there, and its first `j` bands hold the elements `C`. -/
structure LevelHolds (J : Job) (c l N j : Nat) (C : Nat → Nat → Nat → Coef) (u : State) : Prop where
  shape : LevelShape J l N j u.epoch (levelAt u c l)
  bands : BandsHold J l N j C u

/-- From `u` to `t` only level (c, l) and the buffers `N` to `N + 3` changed, of levels, coefficients and samples. -/
structure LevelStep (c l N : Nat) (u t : State) : Prop where
  other : ∀ c' l', c' ≠ c ∨ l' ≠ l → levelAt t c' l' = levelAt u c' l'
  coef : ∀ id e, id < N ∨ N + 4 ≤ id → coefAt t id e = coefAt u id e
  dest : t.dest = u.dest

theorem LevelStep.refl (c l N : Nat) (u : State) : LevelStep c l N u u :=
  ⟨fun _ _ _ => rfl, fun _ _ _ => rfl, rfl⟩

theorem LevelStep.trans (h : LevelStep c l N s u) (h' : LevelStep c l N u t) : LevelStep c l N s t :=
  ⟨fun c' l' hne => (h'.other c' l' hne).trans (h.other c' l' hne),
    fun id e hid => (h'.coef id e hid).trans (h.coef id e hid), h'.dest.trans h.dest⟩

/-- The length of an array from the addresses it has. -/
theorem bufLen_of_isSome {id n : Nat} (hn : 1 ≤ n) (h : ∀ e, (coefAt u id e).isSome = decide (e < n)) :
    bufLen u id = some n := by
  simp only [coefAt_isSome] at h
  cases hlen : bufLen u id with
  | none =>
    have h0 := h 0
    simp only [hlen, Option.any_none, Bool.false_eq, decide_eq_false_iff_not] at h0
    omega
  | some m =>
    simp only [hlen, Option.any_some, decide_eq_decide] at h
    have hm := h m
    have hn := h n
    rw [show m = n by omega]

section
variable (hJ : J.Legal) (hl : l < J.levels)
include hJ hl

theorem LevelShape.inUse {lev : Level} (hs : LevelShape J l N j u.epoch lev) (hb : BandsHold J l N j C u) :
    LevelInUse u lev := by
  have hw := hJ.one_le_width hl
  have hh := hJ.one_le_height hl
  have hfour : lev.numBands.toNat = 4 := by rw [hs.numBands]; rfl
  refine ⟨by omega, by omega, ?_, fun h0 => ?_, fun h0 => ?_, hs.stride, fun b hb4 => ?_, fun b hb4 hge => by omega⟩
  · rw [hfour]
    exact lev.valid.isLt
  · have hwidth := hs.width
    rw [h0] at hwidth
    exact absurd hwidth.symm (by simpa using Nat.ne_of_gt hw)
  · have hheight := hs.height
    rw [h0] at hheight
    exact absurd hheight.symm (by simpa using Nat.ne_of_gt hh)
  · rw [hfour] at hb4
    rw [hs.plane b hb4]
    refine ⟨rfl, rfl, ?_⟩
    rw [planeLen_eq, if_pos rfl, Option.bind_some, bufLen_of_isSome (Nat.mul_pos hw hh) (hb.size b hb4),
      Option.getD_some, hs.width, hs.height]

theorem LevelHolds.inUse (h : LevelHolds J c l N j C u) : LevelInUse u (levelAt u c l) := h.shape.inUse hJ hl h.bands

theorem LevelHolds.legal (h : LevelHolds J c l N j C u) : levelLegal u (levelAt u c l) :=
  (levelLegal_iff_inUse h.shape.init).mpr (h.inUse hJ hl)

theorem LevelHolds.allValid (h : LevelHolds J c l N 4 C u) : allValid (levelAt u c l) = true := by
  refine (allValid_iff (h.legal hJ hl)).mpr ⟨h.shape.init, fun b hb => h.shape.valid b ?_⟩
  rw [h.shape.numBands] at hb
  exact hb

end

theorem levelRef_c (hc : c < 4) (l : Nat) : (levelRef c l).c.toNat = c := by
  simp only [levelRef, BitVec.toNat_ofNat]
  omega

theorem levelRef_l (c : Nat) (hl : l < 3) : (levelRef c l).l.toNat = l := by
  simp only [levelRef, BitVec.toNat_ofNat]
  omega

theorem LevelHolds.ready (h : LevelHolds J c l N j C u) (hc : c < 4) (hl : l < 3) (hb : b < 4) :
    bandReady u (levelRef c l) b := by
  unfold bandReady
  rw [levelRef_c hc, levelRef_l c hl, h.shape.numBands]
  exact ⟨by omega, by omega, h.shape.init, hb⟩

theorem BandsHold.of_coef (h : BandsHold J l N j C u) (hj : j ≤ 4)
    (hcoef : ∀ b < 4, ∀ e, coefAt t (N + b) e = coefAt u (N + b) e) : BandsHold J l N j C t :=
  ⟨fun b hb e => by rw [hcoef b hb]; exact h.size b hb e,
    fun b hb x hx y hy => by rw [hcoef b (hb.trans_le hj)]; exact h.elem b hb x hx y hy⟩

/-- A change of another level leaves a level as it is. -/
theorem LevelHolds.of_step {c' l' N' : Nat} (h : LevelHolds J c l N j C u) (hj : j ≤ 4)
    (hstep : LevelStep c' l' N' u t) (hepoch : t.epoch = u.epoch) (hne : c ≠ c' ∨ l ≠ l')
    (hN : N + 4 ≤ N' ∨ N' + 4 ≤ N) : LevelHolds J c l N j C t := by
  refine ⟨?_, h.bands.of_coef hj fun b hb e => hstep.coef _ e (by omega)⟩
  rw [hstep.other c l hne, hepoch]
  exact h.shape

theorem LevelHolds.setSeq (h : LevelHolds J c l N j C u) (x : Seq) : LevelHolds J c l N j C (setSeq x u) :=
  ⟨h.shape, ⟨h.bands.size, h.bands.elem⟩⟩

/-- The address of an element in row-major order. -/
theorem mul_width_add_lt {w h x y : Nat} (hx : x < w) (hy : y < h) : y * w + x < w * h := by
  have hrow := Nat.mul_le_mul_right w (Nat.succ_le_of_lt hy)
  rw [Nat.succ_mul, Nat.mul_comm h] at hrow
  omega

/-! ## LV.INIT -/

theorem ensureLevel_init (h : (levelAt u c l).init = true) (w ht : Nat) : ensureLevel c l w ht u = .ok () u := by
  rw [ensureLevel, op_bind_of_ok (op_get u), if_pos h, op_pure]

/-- An uninitialized level is made, its bands all zero. -/
theorem ensureLevel_fresh (hJ : J.Legal) (hc : c < 4) (hl : l < J.levels) (hreset : levelAt u c l = Level.reset)
    (C : Nat → Nat → Nat → Coef) :
    ∃ t, ensureLevel c l (J.width l) (J.height l) u = .ok () t ∧ LevelHolds J c l u.nextBuf 0 C t ∧
      LevelStep c l u.nextBuf u t ∧ t.nextBuf = u.nextBuf + 4 ∧ Path [.create, .level] u t := by
  have hl3 : l < 3 := hl.trans_le hJ.sizes.levels.2
  have hw := hJ.one_le_width hl
  have hh := hJ.one_le_height hl
  have hwidth : (BitVec.ofNat 16 (J.width l)).toNat = J.width l :=
    (BitVec.toNat_ofNat ..).trans (Nat.mod_eq_of_lt (J.width_lt l))
  have hheight : (BitVec.ofNat 16 (J.height l)).toNat = J.height l :=
    (BitVec.toNat_ofNat ..).trans (Nat.mod_eq_of_lt (J.height_lt l))
  have hw0 : BitVec.ofNat 16 (J.width l) ≠ 0 := fun h0 => by
    rw [h0] at hwidth
    exact absurd hwidth (Nat.ne_of_lt hw)
  have hh0 : BitVec.ofNat 16 (J.height l) ≠ 0 := fun h0 => by
    rw [h0] at hheight
    exact absurd hheight (Nat.ne_of_lt hh)
  have hcr := levelRef_c hc l
  have hlr := levelRef_l c hl3
  obtain ⟨v, hv, hinit⟩ := levelInit_legal (s := u) (lv := levelRef c l) (n := 4) (by omega) (by omega)
    (by rw [hcr, hlr, hreset]; rfl) (by decide) hw0 hh0
  rw [hcr, hlr] at hv hinit
  obtain ⟨band, hfields⟩ := hv.fields
  have hlevel := levelAt_setLevel_same hc hl3 { levelAt v c l with valid := 0, init := true } v
  have hepoch : v.epoch = u.epoch := by rw [hv.rest]
  refine ⟨setLevel c l { levelAt v c l with valid := 0, init := true } v, ?_, ⟨?_, ?_⟩,
    ⟨fun c' l' hne => ?_, fun id e hid => ?_, ?_⟩, ?_, ?_⟩
  · rw [ensureLevel, op_bind_of_ok (op_get u), if_neg (by rw [hreset]; decide)]
    exact hinit
  · rw [hlevel]
    refine ⟨rfl, ?_, ?_, ?_, ?_, fun b hb => ?_, nofun, nofun⟩
    · rw [hfields]; rfl
    · rw [hfields]; exact hwidth
    · rw [hfields]; exact hheight
    · rw [hfields]
    · refine (congrArg Band.plane ((hv.band b hb).trans (if_pos hb))).trans ?_
      rw [freshPlane, hfields, ← hepoch]
      rfl
  · refine ⟨fun b hb e => ?_, nofun⟩
    refine (congrArg Option.isSome ((hv.coef _ e).trans (if_pos (by omega)))).trans ?_
    rw [hwidth, hheight]
    split <;> simp [*]
  · exact (levelAt_setLevel_ne hne _ v).trans (hv.other c' l' hne)
  · exact (hv.coef id e).trans (if_neg (by omega))
  · rw [hv.rest]; rfl
  · rw [hv.rest]; rfl
  · exact (within_levelInit (by simp) (by simp) _ _ _ _).ok hinit

/-! ## BAND.FILL of a coded band -/

/-- A band of a level given its quantization value. -/
theorem LevelShape.setQuant {epoch : Nat} {lev : Level} (h : LevelShape J l N j epoch lev)
    (q : U16) : LevelShape J l N j epoch (setBand j ⟨(bandAt lev j).plane, q⟩ lev) := by
  refine ⟨h.init, h.numBands, h.width, h.height, h.stride, fun b hb => ?_, h.valid, fun b hb h1 => ?_⟩
  · refine Eq.trans ?_ (h.plane b hb)
    rw [bandAt_setBand]
    split
    next heq => rw [heq.1]
    next => rfl
  · rw [bandAt_setBand, if_neg (by omega)]
    exact h.quant b hb h1

/-- A band of a level marked valid. -/
theorem LevelShape.setValid {epoch : Nat} {lev : Level} (h : LevelShape J l N j epoch lev) (hj : j < 4)
    (hquant : 1 ≤ j → (bandAt lev j).quant = J.bandQuant l j) :
    LevelShape J l N (j + 1) epoch (setValidBit j lev) := by
  refine ⟨h.init, h.numBands, h.width, h.height, h.stride, h.plane, fun b hb => ?_, fun b hb h1 => ?_⟩
  · rw [validBit_setValidBit _ _ (by omega)]
    rcases Nat.lt_succ_iff_lt_or_eq.mp hb with hlt | rfl
    · rw [h.valid b hlt, Bool.true_or]
    · simp
  · rcases Nat.lt_succ_iff_lt_or_eq.mp hb with hlt | rfl
    · exact h.quant b hlt h1
    · exact hquant h1

/-- A coded band filled: its tokens' coefficients stand in it, it is marked valid and has its quantization value. -/
theorem fillCodedBand_holds (hJ : J.Legal) (hu : Running J u) (hc : c < J.channels) (hl : l < J.levels) (hj : j < 4)
    (hfirst : J.first l ≤ j) (h : LevelHolds J c l N j C u) (hC : C j = J.codedCoef c l j) {rest : List Bool}
    (hs : streamRest u = tokensBits (J.tokens c (subbandOf J.levels l j)) ++ rest) :
    ∃ t, fillCodedBand c l J.levels j u = .ok () t ∧ LevelHolds J c l N (j + 1) C t ∧ LevelStep c l N u t ∧
      t.nextBuf = u.nextBuf ∧ streamRest t = rest ∧ t.logtValid = true := by
  have hc4 : c < 4 := hc.trans_le hJ.sizes.channels.2
  have hl3 : l < 3 := hl.trans_le hJ.sizes.levels.2
  have hcr := levelRef_c hc4 l
  have hlr := levelRef_l c hl3
  -- the state in which BAND.FILL starts
  obtain ⟨v, hv⟩ : ∃ v, v = setLevel c l
      (setBand j ⟨(bandAt (levelAt u c l) j).plane, quantAt u (subbandOf J.levels l j)⟩ (levelAt u c l))
      (setSeq ⟨.fill, BitVec.ofNat 2 c, BitVec.ofNat 2 l, BitVec.ofNat 2 j, 0⟩ u) := ⟨_, rfl⟩
  have hstart : fillCodedBand c l J.levels j u = fillBand (levelRef c l) j v := by
    rw [hv]
    rfl
  have hlevel : levelAt v c l =
      setBand j ⟨(bandAt (levelAt u c l) j).plane, quantAt u (subbandOf J.levels l j)⟩ (levelAt u c l) := by
    rw [hv]
    exact levelAt_setLevel_same hc4 hl3 _ _
  have hvstep : LevelStep c l N u v := by
    rw [hv]
    exact ⟨fun c' l' hne => levelAt_setLevel_ne hne _ _, fun _ _ _ => rfl, rfl⟩
  have hvholds : LevelHolds J c l N j C v := by
    refine ⟨?_, h.bands.of_coef hj.le fun b _ e => by rw [hv]; rfl⟩
    rw [hlevel, hv]
    exact h.shape.setQuant _
  have hvrun : Running J v := hu.path (W := [.seq, .level]) (t := v)
    (by rw [hv]; exact ((Write.seq u _).path (by simp)).trans ((Write.level _ _ _ _).path (by simp)))
    (by simp [jobPieces, channelPieces])
  have hvrest : streamRest v = tokensBits (J.tokens c (subbandOf J.levels l j)) ++ rest := by
    rw [← hs, hv]
    rfl
  obtain ⟨htokens, hcount⟩ := hJ.tokens hc hl hfirst hj
  have hid : (bandAt (levelAt v c l) j).plane.buf = some (N + j) := by rw [hvholds.shape.plane j hj]
  obtain ⟨t, hplaced, hfill⟩ := fillBand_placed (lv := levelRef c l) (b := j) (id := N + j) hvrun.wf hvrun.table
    (hvholds.ready hc4 hl3 hj) (by rw [hcr, hlr]; exact hvholds.legal hJ hl) (by rw [hcr, hlr]; exact hid) htokens
    (by rw [hcr, hlr, hvholds.shape.width, hvholds.shape.height]; exact hcount) hvrest
  rw [hcr, hlr] at hfill
  have hct : t.ct = v.ct := by rw [hplaced.rest]; rfl
  have hlevels (c l : Nat) : levelAt t c l = levelAt v c l := by rw [levelAt, channelAt, hct]; rfl
  have hepoch : t.epoch = v.epoch := by rw [hplaced.rest]; rfl
  have hne : J.tokens c (subbandOf J.levels l j) ≠ [] := by
    intro hnil
    rw [hnil] at hcount
    exact (Nat.mul_pos (hJ.one_le_width hl) (hJ.one_le_height hl)).ne hcount
  have htlevel := levelAt_setLevel_same hc4 hl3 (setValidBit j (levelAt v c l)) t
  refine ⟨setLevel c l (setValidBit j (levelAt v c l)) t, hstart.trans hfill, ⟨?_, ⟨fun b hb e => ?_, fun b hb x hx y hy => ?_⟩⟩,
    hvstep.trans ⟨fun c' l' hne => ?_, fun id e hid => ?_, ?_⟩, ?_, ?_, ?_⟩
  · rw [htlevel, show (setLevel c l (setValidBit j (levelAt v c l)) t).epoch = v.epoch from hepoch]
    refine hvholds.shape.setValid hj fun _ => ?_
    rw [hlevel, bandAt_setBand, if_pos ⟨rfl, hj⟩]
    exact hu.quant _ (hJ.subbandOf_lt hl hfirst hj)
  · refine (congrArg Option.isSome (hplaced.coef (N + b) e)).trans ?_
    split
    next hin =>
      have hlt := hin.2
      rw [List.getElem?_eq_getElem hlt, Option.isSome_some, decide_eq_true (hcount ▸ hlt)]
    next => exact hvholds.bands.size b hb e
  · refine (hplaced.coef (N + b) _).trans ?_
    rcases Nat.lt_succ_iff_lt_or_eq.mp hb with hlt | rfl
    · rw [if_neg (by omega)]
      exact hvholds.bands.elem b hlt x hx y hy
    · have hin : y * J.width l + x < (bandCoefs (J.tokens c (subbandOf J.levels l b))).length := by
        rw [hcount]
        exact mul_width_add_lt hx hy
      rw [if_pos ⟨rfl, hin⟩, hC, Job.codedCoef, List.getD_eq_getElem _ _ hin, List.getElem?_eq_getElem hin]
  · exact (levelAt_setLevel_ne hne _ t).trans (hlevels c' l')
  · exact (hplaced.coef id e).trans (if_neg (by omega))
  · rw [show (setLevel c l (setValidBit j (levelAt v c l)) t).dest = t.dest from rfl, hplaced.rest]
    rfl
  · rw [show (setLevel c l (setValidBit j (levelAt v c l)) t).nextBuf = t.nextBuf from rfl, hplaced.rest, hv]
    rfl
  · exact hplaced.streamRest hvrest
  · rw [show (setLevel c l (setValidBit j (levelAt v c l)) t).logtValid = t.logtValid from rfl, hplaced.rest]
    exact Bool.or_eq_true_iff.mpr (.inl (by simpa using hne))

end Sys2Proof.Machine
end

section
/-! SUPPORT. The turns of DecodeChannel (`44_channel_orchestrator.md` R202) on a level: its coded bands, their
dequantization, its synthesis into the next finer level or into the image. -/

namespace Sys2Proof.Machine

variable {s t u : State} {J : Job} {c l b N N' j : Nat} {C : Nat → Nat → Nat → Coef}

/-! ## The coded bands -/

/-- The bands of a level while they are dequantized: those below `d`, and the lowpass band, are final. -/
def Job.coefUpTo (J : Job) (c l d b : Nat) : Nat → Nat → Coef :=
  if b = 0 ∨ b < d then J.bandCoef c l b else J.codedCoef c l b

theorem coefUpTo_first (hf : J.first l ≤ b) : J.coefUpTo c l 1 b = J.codedCoef c l b := by
  unfold Job.coefUpTo
  split
  next hb =>
    obtain rfl : b = 0 := by omega
    obtain rfl : l = J.levels - 1 := by
      unfold Job.first at hf
      split_ifs at hf <;> omega
    funext x y
    exact J.bandCoef_coarsest c x y
  next => rfl

theorem coefUpTo_self {d : Nat} (hd : 1 ≤ d) (x y : Nat) :
    J.coefUpTo c l (d + 1) d x y = dequantized (J.bandQuant l d) (J.coefUpTo c l d d x y) := by
  rw [Job.coefUpTo, Job.coefUpTo, if_pos (by omega), if_neg (by omega)]
  exact Job.bandCoef_highpass (by omega) x y

theorem coefUpTo_of_ne {d : Nat} (hb : b ≠ d) : J.coefUpTo c l (d + 1) b = J.coefUpTo c l d b :=
  if_congr (by omega) rfl rfl

theorem coefUpTo_four (hb : b < 4) : J.coefUpTo c l 4 b = J.bandCoef c l b := if_pos (.inr hb)

/-- What DecodeChannel has done to a level between two of its operations. -/
structure LevelTurn (J : Job) (c l N j : Nat) (C : Nat → Nat → Nat → Coef) (rest : List Bool) (u t : State) : Prop where
  running : Running J t
  holds : LevelHolds J c l N j C t
  step : LevelStep c l N u t
  nextBuf : t.nextBuf = u.nextBuf
  rest : streamRest t = rest

theorem LevelTurn.path {W : List Piece} {C' : Nat → Nat → Nat → Coef} {j' : Nat} {rest : List Bool}
    (h : LevelTurn J c l N j C rest u s) (hp : Path W s t) (hW : W ⊆ jobPieces) (hpos : .pos ∉ W)
    (hcreate : .create ∉ W)
    (hstep : LevelStep c l N s t) (hholds : LevelHolds J c l N j' C' t) : LevelTurn J c l N j' C' rest u t :=
  ⟨h.running.path hp hW, hholds, h.step.trans hstep, (hp.frame.nextBuf hcreate).trans h.nextBuf,
    (hp.streamRest hpos).trans h.rest⟩

section
variable (hJ : J.Legal) (hc : c < J.channels) (hl : l < J.levels)
include hJ hc hl

/-- The coded bands of a level, filled one after the other. -/
theorem fillCodedBands_holds (hu : Running J u) (h : LevelHolds J c l N (J.first l) (J.coefUpTo c l 1) u)
    {rest : List Bool} (hs : streamRest u = J.bitsFrom c (subbandOf J.levels l (J.first l)) ++ rest) :
    ∃ t, forFrom (J.first l) (4 - J.first l) (fillCodedBand c l J.levels) u = .ok () t ∧
      LevelTurn J c l N 4 (J.coefUpTo c l 1) (J.bitsFrom c (3 * (J.levels - 1 - l) + 4) ++ rest) u t ∧
      t.logtValid = true := by
  have hfirst : J.first l ≤ 1 := by
    unfold Job.first
    split_ifs <;> omega
  obtain ⟨t, ht, hturn, hbuilt⟩ := forFrom_ok (f := fillCodedBand c l J.levels) (start := J.first l)
    (n := 4 - J.first l) (s := u) (fun k v => LevelTurn J c l N (J.first l + k) (J.coefUpTo c l 1)
      (J.bitsFrom c (3 * (J.levels - 1 - l) + (J.first l + k)) ++ rest) u v ∧ (0 < k → v.logtValid = true))
    (fun k v hk hv => by
      obtain ⟨hv, -⟩ := hv
      have hrest := hv.rest
      have hsb := hJ.subbandOf_lt hl (Nat.le_add_right (J.first l) k) (by omega)
      rw [← Job.subbandOf_coded hl (Nat.le_add_right _ k), Job.bitsFrom_of_lt hsb, List.append_assoc] at hrest
      obtain ⟨t, ht, hholds, hstep, hnext, htrest, hbuilt⟩ := fillCodedBand_holds hJ hv.running hc hl (by omega)
        (Nat.le_add_right _ k) hv.holds (coefUpTo_first (Nat.le_add_right _ k)) hrest
      refine ⟨t, ht, ⟨hv.running.path ((within_fillCodedBand_channel _ _ _ _).ok ht) (by simp [jobPieces]), hholds,
        hv.step.trans hstep, hnext.trans hv.nextBuf, ?_⟩, fun _ => hbuilt⟩
      rw [htrest, Job.subbandOf_coded hl (Nat.le_add_right _ k)]
      rfl)
    ⟨⟨hu, h, .refl _ _ _ _, rfl, by rw [hs, Job.subbandOf_coded hl le_rfl]; rfl⟩, fun h0 => absurd h0 (by omega)⟩
  rw [show J.first l + (4 - J.first l) = 4 by omega] at hturn
  exact ⟨t, ht, hturn, hbuilt (by omega)⟩

/-! ## The dequantization -/

/-- The plane DecodeChannel takes of a band. -/
theorem LevelHolds.bandPlane (h : LevelHolds J c l N j C u) (hb : b < 4) :
    ∃ p : Plane, levelBandPlane (levelRef c l) b u = .ok p u ∧ planeLegal u p ∧ p.buf = some (N + b) ∧
      p.width.toNat = J.width l ∧ p.height.toNat = J.height l ∧ ∀ x y, planeAddr p x y = y * J.width l + x := by
  have hc4 : c < 4 := hc.trans_le hJ.sizes.channels.2
  have hl3 : l < 3 := hl.trans_le hJ.sizes.levels.2
  have hplane := levelBandPlane_ready (h.ready hc4 hl3 hb)
    (by rw [levelRef_c hc4, levelRef_l c hl3]; exact h.legal hJ hl)
  rw [levelRef_c hc4, levelRef_l c hl3] at hplane
  have huse := h.inUse hJ hl
  have hb' : b < (levelAt u c l).numBands.toNat := by rw [h.shape.numBands]; exact hb
  have hlegal := huse.band_planeLegal hb'
  refine ⟨_, hplane, hlegal, ?_, ?_, ?_, fun x y => ?_⟩
  all_goals simp only [planeAddr, h.shape.plane b hb]
  · exact h.shape.width
  · exact h.shape.height
  · rw [h.shape.width, Nat.zero_add]

/-- One highpass band dequantized. -/
theorem dequantBand_holds {d : Nat} {rest : List Bool} (hd1 : 1 ≤ d) (hd : d < 4)
    (h : LevelTurn J c l N 4 (J.coefUpTo c l d) rest s u) :
    ∃ t, dequantBand c l d u = .ok () t ∧ LevelTurn J c l N 4 (J.coefUpTo c l (d + 1)) rest s t ∧
      (u.logtValid = true → t.logtValid = true) := by
  obtain ⟨p, hplane, hlegal, hbuf, hw, hh, haddr⟩ := h.holds.bandPlane hJ hc hl hd
  obtain ⟨v, hv⟩ : ∃ v, v = setSeq ⟨.deq, BitVec.ofNat 2 c, BitVec.ofNat 2 l, BitVec.ofNat 2 d, 0⟩ u := ⟨_, rfl⟩
  have hquant : (bandAt (levelAt v c l) d).quant = J.bandQuant l d := by
    rw [hv]
    exact h.holds.shape.quant d hd hd1
  have hvlegal : planeLegal v p := by
    rw [hv]
    exact hlegal
  have hvwf : storageWf v := by
    rw [hv]
    exact h.running.wf
  have hvcoef (id e : Nat) : coefAt v id e = coefAt u id e := by rw [hv]; rfl
  obtain ⟨t, ht, honly, hcoef⟩ :=
    levelDequant_inside (J.bandQuant l d) hvwf hvlegal hvlegal rfl rfl hbuf hbuf
  have hrun : dequantBand c l d u = .ok () t := by
    rw [dequantBand, op_bind_of_ok hplane]
    change levelDequant p p (bandAt (levelAt (setSeq _ u) c l) d).quant (setSeq _ u) = _
    rw [← hv, hquant, ht]
  have hpath : Path [.seq, .element] u t := by
    have hfirst : Path [.seq, .element] u v := by
      rw [hv]
      exact (Write.seq u _).path (by simp)
    exact hfirst.trans ((within_levelDequant (by simp) _ _ _).ok ht)
  have helsewhere (id e : Nat) (hid : id ≠ N + d) : coefAt t id e = coefAt u id e := by
    rw [honly.outside id e fun hin => hid (Option.some.inj (hin.1.symm.trans hbuf)), hvcoef]
  have hlevel (c' l' : Nat) : levelAt t c' l' = levelAt u c' l' := hpath.frame.level (by simp) c' l'
  refine ⟨t, hrun, h.path hpath (by simp [jobPieces, channelPieces]) (by simp) (by simp)
    ⟨fun c' l' _ => hlevel c' l', fun id e hid => helsewhere id e (by omega), hpath.frame.dest (by simp)⟩
    ⟨?_, fun b hb e => ?_, fun b hb x hx y hy => ?_⟩, hpath.logtValid⟩
  · rw [hlevel, hpath.frame.epoch]
    exact h.holds.shape
  · rw [honly.elements.coefAt_isSome, hvcoef]
    exact h.holds.bands.size b hb e
  · by_cases hbd : b = d
    · subst hbd
      have hxp : x < p.width.toNat := hw ▸ hx
      have hyp : y < p.height.toNat := hh ▸ hy
      have hturns := foldl_dequantTurn_apart (q := J.bandQuant l b) hvlegal.1 hvlegal.1 rfl (.inr fun _ _ _ _ => rfl)
        hxp hyp (coefMap v) (ido := N + b) (idi := N + b)
      have hat := planeLegal_planeAt (honly.elements.planeLegal hvlegal) hbuf hxp hyp
      rw [← hcoef] at hturns
      rw [planeAt, hbuf, Option.bind_some, hturns, coefMap, hvcoef, haddr, h.holds.bands.elem b hb x hx y hy] at hat
      rw [hat, coefUpTo_self hd1]
      rfl
    · rw [helsewhere _ _ (by omega), coefUpTo_of_ne hbd]
      exact h.holds.bands.elem b hb x hx y hy

/-- The highpass bands of a level, dequantized one after the other. -/
theorem dequantBands_holds {rest : List Bool} (h : LevelTurn J c l N 4 (J.coefUpTo c l 1) rest s u)
    (hbuilt : u.logtValid = true) :
    ∃ t, forFrom 1 3 (dequantBand c l) u = .ok () t ∧ LevelTurn J c l N 4 (J.coefUpTo c l 4) rest s t ∧
      t.logtValid = true := by
  refine forFrom_ok (fun k v => LevelTurn J c l N 4 (J.coefUpTo c l (1 + k)) rest s v ∧ v.logtValid = true)
    (fun k v hk hv => ?_) ⟨h, hbuilt⟩
  obtain ⟨t, ht, hturn, hkeep⟩ := dequantBand_holds hJ hc hl (Nat.le_add_right 1 k) (by omega) hv.1
  exact ⟨t, ht, hturn, hkeep hv.2⟩

/-! ## The synthesis -/

omit hJ hc hl in
/-- The value LV.RECON writes from a level whose bands are final. -/
theorem reconValue_holds (hu : Running J u) (h : LevelHolds J c l N 4 (J.coefUpTo c l 4) u) (prescale : BitVec 4)
    (clamp : Bool) {X Y : Nat} (hX : X < 2 * J.width l) (hY : Y < 2 * J.height l) :
    reconValue u (levelAt u c l) prescale clamp X Y =
      let v := synthAt (J.bandInt c l) (J.width l) (J.height l) X Y / 2 ^ prescale.toNat
      if clamp then max 0 (min v (2 ^ J.head.fields.bitsPerComponent.toNat - 1)) else v := by
  have hband (b : Nat) (hb : b < 4) (x : Nat) (hx : x < J.width l) (y : Nat) (hy : y < J.height l) :
      bandValue u (levelAt u c l) b x y = J.bandInt c l b x y := by
    have haddr : planeAddr (bandAt (levelAt u c l) b).plane x y = y * J.width l + x := by
      simp only [planeAddr, h.shape.plane b hb]
      rw [h.shape.width, Nat.zero_add]
    have hbuf : (bandAt (levelAt u c l) b).plane.buf = some (N + b) := by rw [h.shape.plane b hb]
    have hb' : b < (levelAt u c l).numBands.toNat := by rw [h.shape.numBands]; exact hb
    rw [bandValue, if_pos hb', planeAt, hbuf, Option.bind_some, haddr, h.bands.elem b hb x hx y hy, Option.getD_some,
      coefUpTo_four hb, Job.toInt_bandCoef]
  rw [reconValue, h.shape.width, h.shape.height, synthAt_congr hband hX hY, hu.hdr]

end

/-! ## Into the next finer level -/

/-- The end of DecodeChannel's turn on level `k + 1` (R202): its synthesis goes into the lowpass band of level `k`. -/
def finerTail (c k w h : Nat) (prescale : BitVec 4) : Op Unit := do
  ensureLevel c k (2 * w) (2 * h)
  let p ← levelBandPlane (levelRef c k) 0
  moveSeq .recon c (k + 1) 0
  levelRecon (levelRef c (k + 1)) (.plane p) prescale false
  levelSetValid (levelRef c k) 0

section
variable {k : Nat} (hJ : J.Legal) (hc : c < J.channels) (hk : k + 1 < J.levels)
include hJ hc hk

/-- The synthesis written into a band of the next finer level. -/
theorem levelRecon_finer {p : Plane} (hu : Running J u) (h : LevelHolds J c (k + 1) N 4 (J.coefUpTo c (k + 1) 4) u)
    (hlegal : planeLegal u p) (hbuf : p.buf = some N') (hw : p.width.toNat = J.width k)
    (hh : p.height.toNat = J.height k) (haddr : ∀ x y, planeAddr p x y = y * J.width k + x) :
    ∃ t, levelRecon (levelRef c (k + 1)) (.plane p) (J.prescale c (k + 1)) false u = .ok () t ∧ OnlyElements u t ∧
      (∀ x < J.width k, ∀ y < J.height k, coefAt t N' (y * J.width k + x) = some (J.bandCoef c k 0 x y)) ∧
      ∀ id e, id ≠ N' → coefAt t id e = coefAt u id e := by
  have hc4 : c < 4 := hc.trans_le hJ.sizes.channels.2
  have hk3 : k + 1 < 3 := hk.trans_le hJ.sizes.levels.2
  have hcr := levelRef_c hc4 (k + 1)
  have hlr := levelRef_l c hk3
  have hwidth : p.width.toNat = 2 * (levelAt u c (k + 1)).width.toNat := by
    rw [hw, h.shape.width, hJ.two_mul_width hk]
  have hheight : p.height.toNat = 2 * (levelAt u c (k + 1)).height.toNat := by
    rw [hh, h.shape.height, hJ.two_mul_height hk]
  obtain ⟨t, ht, honly, hcoef⟩ := levelRecon_plane (lv := levelRef c (k + 1)) (lev := levelAt u c (k + 1))
    (prescale := J.prescale c (k + 1)) (clamp := false) (by omega) (by omega) (by rw [hcr, hlr]) (h.allValid hJ hk)
    hu.wf (h.legal hJ hk) hlegal hwidth hheight
  refine ⟨t, ht, honly, fun x hx y hy => ?_, fun id e hid => ?_⟩
  · rw [hcoef, ← haddr]
    refine (foldl_ite_of_mem (b := (x, y)) (mem_rowMajor.mpr ⟨hw ▸ hx, hh ▸ hy⟩) ⟨hbuf, rfl⟩
      (fun XY hXY he => ?_) _).trans (congrArg some ?_)
    · obtain ⟨rfl, rfl⟩ := planeAddr_inj hlegal.1 (hw ▸ hx) (mem_rowMajor.mp hXY).1 he.2
      rfl
    · rw [reconValue_holds hu h _ _ (by rwa [hJ.two_mul_width hk]) (by rwa [hJ.two_mul_height hk])]
      exact (Job.bandCoef_finer hk x y).symm
  · rw [hcoef]
    exact foldl_ite_of_forall_not (fun XY _ hn => hid (Option.some.inj (hn.1.symm.trans hbuf))) _

/-- The turn's end leaves the next finer level with its lowpass band valid. -/
theorem finerTail_holds (hu : Running J u) (h : LevelHolds J c (k + 1) N 4 (J.coefUpTo c (k + 1) 4) u)
    (hreset : levelAt u c k = Level.reset) (hN : N + 4 ≤ u.nextBuf) :
    ∃ t, finerTail c k (J.width (k + 1)) (J.height (k + 1)) (J.prescale c (k + 1)) u = .ok () t ∧
      LevelHolds J c k u.nextBuf 1 (J.coefUpTo c k 1) t ∧ LevelStep c k u.nextBuf u t ∧
      t.nextBuf = u.nextBuf + 4 ∧ Path [.create, .level, .seq, .element, .dest] u t := by
  have hc4 : c < 4 := hc.trans_le hJ.sizes.channels.2
  have hkl : k < J.levels := by omega
  have hk3 : k < 3 := hkl.trans_le hJ.sizes.levels.2
  have hcr := levelRef_c hc4 k
  have hlr := levelRef_l c hk3
  obtain ⟨v, hv, hfine, hstep, hnext, hpath⟩ := ensureLevel_fresh hJ hc4 hkl hreset (J.coefUpTo c k 1)
  have hvl := h.of_step le_rfl hstep hpath.frame.epoch (.inr (by omega)) (.inl hN)
  have hvrun := hu.path hpath (by simp [jobPieces, channelPieces])
  obtain ⟨p, hplane, hlegal, hbuf, hw, hh, haddr⟩ := hfine.bandPlane hJ hc hkl (show 0 < 4 by decide)
  -- the state in which LV.RECON starts
  obtain ⟨v', hv'⟩ : ∃ v', v' = setSeq ⟨.recon, BitVec.ofNat 2 c, BitVec.ofNat 2 (k + 1), BitVec.ofNat 2 0, 0⟩ v :=
    ⟨_, rfl⟩
  have hpath' : Path [.create, .level, .seq, .element, .dest] v v' := by
    rw [hv']
    exact (Write.seq v _).path (by simp)
  have hv'l : LevelHolds J c (k + 1) N 4 (J.coefUpTo c (k + 1) 4) v' := by
    rw [hv']
    exact hvl.setSeq _
  have hv'fine : LevelHolds J c k u.nextBuf 0 (J.coefUpTo c k 1) v' := by
    rw [hv']
    exact hfine.setSeq _
  have hlegal' : planeLegal v' p := by
    rw [hv']
    exact hlegal
  have hv'run := hvrun.path hpath' (by simp [jobPieces, channelPieces])
  obtain ⟨t, ht, honly, helem, helse⟩ := levelRecon_finer hJ hc hk hv'run hv'l hlegal' hbuf hw hh haddr
  have htpath : Path [.element, .dest] v' t := (within_levelRecon (by simp) (by simp) _ _ _ _).ok ht
  have hlevels (c' l' : Nat) : levelAt t c' l' = levelAt v' c' l' := htpath.frame.level (by simp) c' l'
  have htfine : LevelHolds J c k u.nextBuf 0 (J.coefUpTo c k 1) t := by
    refine ⟨?_, ⟨fun b hb e => ?_, nofun⟩⟩
    · rw [hlevels, honly.epoch]
      exact hv'fine.shape
    · rw [honly.coefAt_isSome]
      exact hv'fine.bands.size b hb e
  have hready := htfine.ready hc4 hk3 (show 0 < 4 by decide)
  have hsame := levelAt_setLevel_same hc4 hk3 (setValidBit 0 (levelAt t c k)) t
  refine ⟨setLevel c k (setValidBit 0 (levelAt t c k)) t, ?_, ⟨?_, ⟨htfine.bands.size, fun b hb x hx y hy => ?_⟩⟩,
    hstep.trans ⟨fun c' l' hne => ?_, fun id e hid => ?_, ?_⟩, ?_, ?_⟩
  · rw [finerTail, hJ.two_mul_width hk, hJ.two_mul_height hk, op_bind_of_ok hv, op_bind_of_ok hplane]
    refine (op_bind_of_ok (s' := v') (a := ()) ?_).trans ((op_bind_of_ok ht).trans ?_)
    · rw [hv']
      rfl
    · rw [levelSetValid, op_bind_of_ok (fetchBandLevel_ready hready), storeLevel, op_modify, hcr, hlr]
  · rw [hsame]
    exact htfine.shape.setValid (by decide) (by omega)
  · obtain rfl : b = 0 := by omega
    exact helem x hx y hy
  · refine (levelAt_setLevel_ne hne _ t).trans ((hlevels c' l').trans ?_)
    rw [hv']
    rfl
  · refine (helse id e ?_).trans ?_
    · omega
    · rw [hv']
      rfl
  · refine (show (setLevel c k (setValidBit 0 (levelAt t c k)) t).dest = v'.dest from ?_).trans ?_
    · rw [honly.rest]
      rfl
    · rw [hv']
      rfl
  · refine (show (setLevel c k (setValidBit 0 (levelAt t c k)) t).nextBuf = v.nextBuf from ?_).trans hnext
    refine (htpath.frame.nextBuf (by simp)).trans ?_
    rw [hv']
    rfl
  · exact (hpath.mono (by simp)).trans (hpath'.trans ((htpath.mono (by simp)).trans
      ((Write.level t _ _ _).path (by simp))))

end

end Sys2Proof.Machine
end

section
/-! SUPPORT. DecodeChannel (`44_channel_orchestrator.md` R202, R203): the samples of a channel, and its levels from the
coarsest to the finest. -/

namespace Sys2Proof.Machine

variable {s t u v : State} {J : Job} {c l N : Nat} {rest : List Bool}

/-! ## The samples of a channel -/

/-- The key of the sample that element (X, Y) of channel `c` becomes (R203). -/
def Job.sampleKey (J : Job) (c X Y : Nat) : Nat :=
  destKey J.bound.dest.image
    (J.offx.toNat + J.head.fields.patternWidth.toNat * X + c % J.head.fields.patternWidth.toNat)
    (J.offy.toNat + J.head.fields.patternHeight.toNat * Y + c / J.head.fields.patternWidth.toNat)

/-- `key` is the key of no sample of channel `c`. -/
def Job.offChannel (J : Job) (c key : Nat) : Prop :=
  ∀ X Y, X < planeWidth J.head.fields → Y < planeHeight J.head.fields → key ≠ J.sampleKey c X Y

/-- The sample a channel's element becomes (R202). -/
def Job.sample (J : Job) (c X Y : Nat) : U16 :=
  BitVec.ofInt 16 (imageValue J.head J.tokens (fun l => (J.prescale c l).toNat) c X Y)

/-- From `u` to `t` the samples of channel `c` were written, and no others. -/
structure SamplesWritten (J : Job) (c : Nat) (u t : State) : Prop where
  sample : ∀ X Y, X < planeWidth J.head.fields → Y < planeHeight J.head.fields →
    cellRead t.dest (J.sampleKey c X Y) = J.sample c X Y
  other : ∀ key, J.offChannel c key → cellRead t.dest key = cellRead u.dest key

/-- Where in the region an element of a channel lies. -/
theorem Job.Legal.place (hJ : J.Legal) (hc : c < J.channels) {X Y : Nat} (hX : X < planeWidth J.head.fields)
    (hY : Y < planeHeight J.head.fields) :
    J.head.fields.patternWidth.toNat * X + c % J.head.fields.patternWidth.toNat < J.head.fields.imageWidth.toNat ∧
      J.head.fields.patternHeight.toNat * Y + c / J.head.fields.patternWidth.toNat <
        J.head.fields.imageHeight.toNat := by
  have hcell : c < J.head.fields.patternWidth.toNat * J.head.fields.patternHeight.toNat := hJ.sizes.pattern ▸ hc
  exact ⟨mul_add_lt_of_lt_div (Nat.mod_lt c hJ.sizes.patternWidth) hX,
    mul_add_lt_of_lt_div (Nat.div_lt_of_lt_mul hcell) hY⟩

/-- A repetition of the pattern and a place in it are told apart. -/
theorem mul_add_inj {p X X' r r' : Nat} (hr : r < p) (hr' : r' < p) (h : p * X + r = p * X' + r') : r = r' := by
  have hmod := congrArg (· % p) h
  simpa [Nat.mul_add_mod, Nat.mod_eq_of_lt hr, Nat.mod_eq_of_lt hr'] using hmod

/-- Two channels have no sample in common. -/
theorem Job.Legal.offChannel_of_ne (hJ : J.Legal) {c' : Nat} (hc : c < J.channels) (hc' : c' < J.channels)
    (hne : c ≠ c') {X Y : Nat} (hX : X < planeWidth J.head.fields) (hY : Y < planeHeight J.head.fields) :
    J.offChannel c' (J.sampleKey c X Y) := by
  intro X' Y' hX' hY' hkey
  have hpattern := hJ.sizes.pattern
  have hcell : c < J.head.fields.patternWidth.toNat * J.head.fields.patternHeight.toNat := hpattern ▸ hc
  have hcell' : c' < J.head.fields.patternWidth.toNat * J.head.fields.patternHeight.toNat := hpattern ▸ hc'
  obtain ⟨hx, -⟩ := hJ.place hc hX hY
  obtain ⟨hx', -⟩ := hJ.place hc' hX' hY'
  have hfits := hJ.fitsWidth
  have hdest := J.bound.dest.w.isLt
  obtain ⟨hcol, hrow⟩ := destKey_inj (by omega) (by omega) hkey
  have hmod := mul_add_inj (Nat.mod_lt c hJ.sizes.patternWidth) (Nat.mod_lt c' hJ.sizes.patternWidth)
    (show _ * X + _ = _ * X' + _ by omega)
  have hdiv := mul_add_inj (Nat.div_lt_of_lt_mul hcell) (Nat.div_lt_of_lt_mul hcell')
    (show _ * Y + _ = _ * Y' + _ by omega)
  exact hne (by rw [← Nat.div_add_mod c J.head.fields.patternWidth.toNat, hmod, hdiv, Nat.div_add_mod])

/-- The end of DecodeChannel's turn on level 0: its synthesis goes into the image. -/
def samplesTail (c : Nat) (prescale : BitVec 4) : Op Unit := do
  moveSeq .recon c 0 0
  levelRecon (levelRef c 0) (.image (BitVec.ofNat 8 c)) prescale true

theorem Running.destX_eq (hu : Running J u) (hJ : J.Legal) (c X : Nat) :
    destX u c X = J.offx.toNat + J.head.fields.patternWidth.toNat * X + c % J.head.fields.patternWidth.toNat := by
  rw [destX, hu.offx, hu.hdr, remainder, if_neg (Nat.ne_of_gt hJ.sizes.patternWidth)]

theorem Running.destY_eq (hu : Running J u) (hJ : J.Legal) (c Y : Nat) :
    destY u c Y = J.offy.toNat + J.head.fields.patternHeight.toNat * Y + c / J.head.fields.patternWidth.toNat := by
  rw [destY, hu.offy, hu.hdr, quotient, if_neg (Nat.ne_of_gt hJ.sizes.patternWidth)]

theorem Running.boundDest_eq (hu : Running J u) : boundDest u = J.bound.dest := by
  rw [boundDest, hu.binding]
  rfl

section
variable (hJ : J.Legal) (hc : c < J.channels)
include hJ hc

theorem samplesTail_holds (hu : Running J u) (h : LevelHolds J c 0 N 4 (J.coefUpTo c 0 4) u) :
    ∃ t, samplesTail c (J.prescale c 0) u = .ok () t ∧ SamplesWritten J c u t ∧
      Path [.seq, .element, .dest] u t ∧ ∀ id e, coefAt t id e = coefAt u id e := by
  have hl : 0 < J.levels := hJ.sizes.levels.1
  have hc4 : c < 4 := hc.trans_le hJ.sizes.channels.2
  have hcr := levelRef_c hc4 0
  have hlr : (levelRef c 0).l.toNat = 0 := rfl
  have hchannel : (BitVec.ofNat 8 c).toNat = c := (BitVec.toNat_ofNat ..).trans (Nat.mod_eq_of_lt (by omega))
  -- the state in which LV.RECON starts
  obtain ⟨v, hv⟩ : ∃ v, v = setSeq ⟨.recon, BitVec.ofNat 2 c, BitVec.ofNat 2 0, BitVec.ofNat 2 0, 0⟩ u := ⟨_, rfl⟩
  have hpath : Path [.seq, .element, .dest] u v := by
    rw [hv]
    exact (Write.seq u _).path (by simp)
  have hvl : LevelHolds J c 0 N 4 (J.coefUpTo c 0 4) v := hv ▸ h.setSeq _
  have hvrun := hu.path hpath (by simp [jobPieces, channelPieces])
  have hvdest : v.dest = u.dest := by rw [hv]; rfl
  have hw : 2 * (levelAt v c 0).width.toNat = channelWidth v := by
    rw [hvl.shape.width, hJ.two_mul_width_zero, hvrun.planeWidth_eq hJ]
  have hh : 2 * (levelAt v c 0).height.toNat = channelHeight v := by
    rw [hvl.shape.height, hJ.two_mul_height_zero, hvrun.planeHeight_eq hJ]
  obtain ⟨-, hdest, -⟩ := storageWf_iff.mp hvrun.wf
  obtain ⟨t, ht, honly, -⟩ := levelRecon_image (lv := levelRef c 0) (lev := levelAt v c 0)
    (prescale := J.prescale c 0) hdest (by omega) (by omega) (by rw [hcr, hlr]) (hvl.allValid hJ hl) (hvl.legal hJ hl)
    hw hh (BitVec.ofNat 8 c)
  -- O51 says which samples that writes
  obtain ⟨t', ht', -, -, hothers, hsamples⟩ := Settled.reconImageResult v (levelRef c 0) (BitVec.ofNat 8 c)
    (J.prescale c 0) hvrun.wf (by omega) (by omega) (by rw [hcr, hlr]; exact hvl.legal hJ hl)
    (by rw [hcr, hlr]; exact hvl.allValid hJ hl) (by rw [hcr, hlr]; exact hw) (by rw [hcr, hlr]; exact hh)
  obtain rfl : setResult .none t = t' := Host.Outcome.next.inj ((finishUnit_of_ok ht).symm.trans ht')
  have hsizes := hJ.sizes
  refine ⟨t, ?_, ⟨fun X Y hX hY => ?_, fun key hkey => ?_⟩,
    hpath.trans (((within_levelRecon (by simp) (by simp) _ _ _ _).ok ht)), fun id e => ?_⟩
  · refine (op_bind_of_ok (s' := v) (a := ()) ?_).trans ht
    rw [hv]
    rfl
  · have hsample := hsamples J.bound hvrun.binding (hvrun.hdr ▸ hsizes.patternWidth) (hvrun.hdr ▸ hsizes.patternHeight)
      (by rw [hchannel, hvrun.hdr, hsizes.pattern]; exact hc) (by rw [hvrun.hdr]; exact hsizes.bits)
      (by rw [hvrun.hdr, hvrun.offx]; exact hJ.fitsWidth) (by rw [hvrun.hdr, hvrun.offy]; exact hJ.fitsHeight) X Y
      (by rw [hvrun.hdr]; exact hX) (by rw [hvrun.hdr]; exact hY)
    rw [hcr, hlr, hchannel, hvrun.hdr, hvrun.offx, hvrun.offy,
      reconValue_holds hvrun hvl _ _ (by rwa [hJ.two_mul_width_zero]) (by rwa [hJ.two_mul_height_zero])] at hsample
    exact hsample.trans (congrArg (BitVec.ofInt 16) (J.imageValue_eq c X Y).symm)
  · obtain ⟨-, hother⟩ := hothers (hvrun.hdr ▸ hsizes.patternWidth) (hvrun.hdr ▸ hsizes.patternHeight)
    rw [← hvdest]
    refine hother key fun X Y hX hY _ => ?_
    rw [hchannel, hvrun.destX_eq hJ, hvrun.destY_eq hJ, hvrun.boundDest_eq]
    rw [hvrun.hdr] at hX hY
    exact hkey X Y hX hY
  · rw [honly.rest, hv]
    rfl

end

end Sys2Proof.Machine
end

section
/-! SUPPORT. DECODE of a legal stream (`44_channel_orchestrator.md` R201, R202): a channel's levels from the coarsest to
the finest, and the channels one after the other. -/

namespace Sys2Proof.Machine

variable {s t u v : State} {J : Job} {c l N k : Nat} {rest : List Bool}

/-! ## One level -/

/-- How DecodeChannel's turn on a level ends. -/
def Job.levelTail (J : Job) (c : Nat) : Nat → Op Unit
  | 0 => samplesTail c (J.prescale c 0)
  | k + 1 => finerTail c k (J.width (k + 1)) (J.height (k + 1)) (J.prescale c (k + 1))

/-- DecodeChannel's turn on a level, its sizes and its prescale read out of the registers. -/
theorem Running.decodeLevel_eq (hu : Running J u) (hJ : J.Legal) (c l : Nat) :
    decodeLevel c J.levels l u = (do
      ensureLevel c l (J.width l) (J.height l)
      forFrom (J.first l) (4 - J.first l) (fillCodedBand c l J.levels)
      forFrom 1 3 (dequantBand c l)
      J.levelTail c l) u := by
  rw [← hu.levelWidth_eq hJ, ← hu.levelHeight_eq hJ]
  cases l with
  | zero =>
    rw [Job.levelTail, ← hu.prescale]
    rfl
  | succ k =>
    rw [Job.levelTail, ← hu.prescale, ← hu.levelWidth_eq hJ, ← hu.levelHeight_eq hJ]
    rfl

/-- What DecodeChannel leaves, started in `u` on level `k` with its first buffer `N`. -/
structure LevelsDone (J : Job) (c k N : Nat) (rest : List Bool) (u t : State) : Prop where
  running : Running J t
  valid : ∀ l ≤ k, allValid (levelAt t c l) = true
  other : ∀ c' l', c' ≠ c ∨ k < l' → levelAt t c' l' = levelAt u c' l'
  coef : ∀ id e, id < N → coefAt t id e = coefAt u id e
  nextBuf : t.nextBuf = N + 4 * (k + 1)
  rest : streamRest t = rest
  built : t.logtValid = true
  samples : SamplesWritten J c u t

section
variable (hJ : J.Legal) (hc : c < J.channels)
include hJ hc

/-- The bands of a level made final. -/
theorem bands_holds (hl : l < J.levels) (hu : Running J u)
    (h : LevelHolds J c l N (J.first l) (J.coefUpTo c l 1) u)
    (hs : streamRest u = J.bitsFrom c (subbandOf J.levels l (J.first l)) ++ rest) :
    ∃ v, LevelTurn J c l N 4 (J.coefUpTo c l 4) (J.bitsFrom c (3 * (J.levels - 1 - l) + 4) ++ rest) u v ∧
      v.logtValid = true ∧ decodeLevel c J.levels l u = J.levelTail c l v := by
  obtain ⟨w, hw, hfilled, hbuilt⟩ := fillCodedBands_holds hJ hc hl hu h hs
  obtain ⟨v, hv, hfinal, hbuilt⟩ := dequantBands_holds hJ hc hl hfilled hbuilt
  refine ⟨v, hfinal, hbuilt, ?_⟩
  rw [hu.decodeLevel_eq hJ, op_bind_of_ok (ensureLevel_init h.shape.init _ _), op_bind_of_ok hw, op_bind_of_ok hv]

/-- From a level that is there, with the levels finer than it uninitialized, all levels down to the image. -/
theorem decodeLevels_done (hk : k < J.levels) (hu : Running J u)
    (h : LevelHolds J c k N (J.first k) (J.coefUpTo c k 1) u) (hfiner : ∀ l < k, levelAt u c l = Level.reset)
    (hnext : u.nextBuf = N + 4) (hs : streamRest u = J.bitsFrom c (subbandOf J.levels k (J.first k)) ++ rest) :
    ∃ t, decodeLevels c J.levels (k + 1) u = .ok () t ∧ LevelsDone J c k N rest u t := by
  induction k generalizing N u with
  | zero =>
    obtain ⟨v, hturn, hbuilt, hrun⟩ := bands_holds hJ hc hk hu h hs
    obtain ⟨t, ht, hsamples, hpath, hcoef⟩ := samplesTail_holds hJ hc hturn.running hturn.holds
    have hlevels (c' l' : Nat) : levelAt t c' l' = levelAt v c' l' := hpath.frame.level (by simp) c' l'
    have hbands : 3 * (J.levels - 1 - 0) + 4 = J.bands := by
      have hbands : J.bands = 3 * J.levels + 1 := hJ.sizes.bands
      omega
    refine ⟨t, ?_, hturn.running.path hpath (by simp [jobPieces, channelPieces]), fun l hl => ?_,
      fun c' l' hne => (hlevels c' l').trans (hturn.step.other c' l' (by omega)),
      fun id e hid => (hcoef id e).trans (hturn.step.coef id e (.inl hid)),
      (hpath.frame.nextBuf (by simp)).trans (hturn.nextBuf.trans hnext), ?_, hpath.logtValid hbuilt,
      ⟨hsamples.sample, fun key hkey => (hsamples.other key hkey).trans (by rw [hturn.step.dest])⟩⟩
    · exact op_bind_of_ok (hrun.trans ht)
    · obtain rfl : l = 0 := by omega
      rw [hlevels]
      exact hturn.holds.allValid hJ hk
    · rw [hpath.streamRest (by simp), hturn.rest, hbands, Job.bitsFrom_bands, List.nil_append]
  | succ k ih =>
    obtain ⟨v, hturn, hbuilt, hrun⟩ := bands_holds hJ hc hk hu h hs
    have hvnext : v.nextBuf = N + 4 := hturn.nextBuf.trans hnext
    have hvfiner (l : Nat) (hl : l < k + 1) : levelAt v c l = Level.reset :=
      (hturn.step.other c l (.inr (by omega))).trans (hfiner l hl)
    obtain ⟨w, hw, hfine, hstep, hwnext, hpath⟩ :=
      finerTail_holds hJ hc hk hturn.running hturn.holds (hvfiner k (by omega)) hvnext.ge
    have hwrun := hturn.running.path hpath (by simp [jobPieces, channelPieces])
    have hfirst : J.first k = 1 := if_neg (by omega)
    rw [hvnext] at hfine hstep hwnext
    have hwrest : streamRest w = J.bitsFrom c (subbandOf J.levels k (J.first k)) ++ rest := by
      rw [hpath.streamRest (by simp), hturn.rest, Job.subbandOf_coded (by omega) le_rfl, hfirst,
        show 3 * (J.levels - 1 - (k + 1)) + 4 = 3 * (J.levels - 1 - k) + 1 by omega]
    obtain ⟨t, ht, hdone⟩ := ih (by omega) hwrun (hfirst ▸ hfine)
      (fun l hl => (hstep.other c l (.inr (by omega))).trans (hvfiner l (by omega))) hwnext hwrest
    refine ⟨t, ?_, hdone.running, fun l hl => ?_, fun c' l' hne => ?_, fun id e hid => ?_, ?_, hdone.rest, hdone.built,
      ⟨hdone.samples.sample, fun key hkey => (hdone.samples.other key hkey).trans ?_⟩⟩
    · exact (op_bind_of_ok (hrun.trans hw)).trans ht
    · rcases Nat.lt_or_ge k l with hlt | hle
      · obtain rfl : l = k + 1 := by omega
        rw [hdone.other c _ (.inr hlt), hstep.other c _ (.inr (by omega))]
        exact hturn.holds.allValid hJ hk
      · exact hdone.valid l hle
    · rw [hdone.other c' l' (by omega), hstep.other c' l' (by omega), hturn.step.other c' l' (by omega)]
    · rw [hdone.coef id e (by omega), hstep.coef id e (by omega), hturn.step.coef id e (by omega)]
    · rw [hdone.nextBuf]
      omega
    · rw [hstep.dest, hturn.step.dest]

/-! ## One channel -/

/-- DecodeChannel on a channel all of whose levels are uninitialized. -/
theorem decodeChannel_done (hu : Running J u) (hreset : ∀ l < J.levels, levelAt u c l = Level.reset)
    (hs : streamRest u = J.bitsFrom c 0 ++ rest) :
    ∃ t, decodeChannel c u = .ok () t ∧ LevelsDone J c (J.levels - 1) u.nextBuf rest u t := by
  have hc4 : c < 4 := hc.trans_le hJ.sizes.channels.2
  have hpos : 1 ≤ J.levels := hJ.sizes.levels.1
  obtain ⟨k, hk⟩ : ∃ k, J.levels = k + 1 := ⟨J.levels - 1, by omega⟩
  have hlast : J.levels - 1 = k := by omega
  have hfirst : J.first k = 0 := if_pos hlast.symm
  obtain ⟨v, hv, hholds, hstep, hnext, hpath⟩ :=
    ensureLevel_fresh hJ hc4 (show k < J.levels by omega) (hreset k (by omega)) (J.coefUpTo c k 1)
  have hvrun := hu.path hpath (by simp [jobPieces, channelPieces])
  have hvrest : streamRest v = J.bitsFrom c (subbandOf J.levels k (J.first k)) ++ rest := by
    rw [hpath.streamRest (by simp), hs, hfirst]
    rfl
  obtain ⟨t, ht, hdone⟩ := decodeLevels_done hJ hc (show k < J.levels by omega) hvrun (hfirst ▸ hholds)
    (fun l hl => (hstep.other c l (.inr (by omega))).trans (hreset l (by omega))) hnext hvrest
  -- the level made, DECODE goes on as if it had found it there
  have hensured : decodeLevel c J.levels k u = decodeLevel c J.levels k v := by
    rw [hu.decodeLevel_eq hJ, hvrun.decodeLevel_eq hJ, op_bind_of_ok hv,
      op_bind_of_ok (ensureLevel_init hholds.shape.init _ _)]
  have hrun : decodeChannel c u = decodeLevels c J.levels (k + 1) v := by
    rw [decodeChannel, op_bind_of_ok (op_get u), hu.hdr, show J.head.fields.numWavelets.toNat = k + 1 from hk,
      show J.levels = k + 1 from hk, decodeLevels, op_bind, op_bind, ← hk, hensured]
  rw [hlast]
  refine ⟨t, hrun.trans ht, hdone.running, hdone.valid, fun c' l' hne => ?_, fun id e hid => ?_, hdone.nextBuf,
    hdone.rest, hdone.built, ⟨hdone.samples.sample, fun key hkey => (hdone.samples.other key hkey).trans ?_⟩⟩
  · rw [hdone.other c' l' hne, hstep.other c' l' (by omega)]
  · rw [hdone.coef id e hid, hstep.coef id e (.inl hid)]
  · rw [hstep.dest]

end

/-! ## The channels -/

/-- What DECODE leaves, from the state `v` after its header, when `k` channels are done. -/
structure ChannelsDone (J : Job) (k : Nat) (rest : List Bool) (v t : State) : Prop where
  running : Running J t
  valid : ∀ c < k, ∀ l < J.levels, allValid (levelAt t c l) = true
  other : ∀ c l, k ≤ c ∨ J.levels ≤ l → levelAt t c l = levelAt v c l
  coef : ∀ id e, id < v.nextBuf → coefAt t id e = coefAt v id e
  nextBuf : t.nextBuf = v.nextBuf + 4 * k * J.levels
  rest : streamRest t = J.channelsFrom k ++ rest
  built : 0 < k → t.logtValid = true
  sample : ∀ c < k, ∀ X Y, X < planeWidth J.head.fields → Y < planeHeight J.head.fields →
    cellRead t.dest (J.sampleKey c X Y) = J.sample c X Y
  unwritten : ∀ key, (∀ c < k, J.offChannel c key) → cellRead t.dest key = cellRead v.dest key

theorem ChannelsDone.turn (hJ : J.Legal) (hk : k < J.channels) (hreset : ∀ c < 4, ∀ l < 3, levelAt v c l = Level.reset)
    (hu : ChannelsDone J k rest v u) : ∃ t, decodeChannel k u = .ok () t ∧ ChannelsDone J (k + 1) rest v t := by
  have hlevels : 1 ≤ J.levels ∧ J.levels ≤ 3 := hJ.sizes.levels
  have hchannels : J.channels ≤ 4 := hJ.sizes.channels.2
  have hrest := hu.rest
  rw [Job.channelsFrom_of_lt hk, List.append_assoc] at hrest
  obtain ⟨t, ht, hdone⟩ := decodeChannel_done hJ hk hu.running
    (fun l hl => (hu.other k l (.inl le_rfl)).trans (hreset k (by omega) l (by omega))) hrest
  have hbelow : v.nextBuf ≤ u.nextBuf := by
    rw [hu.nextBuf]
    exact Nat.le_add_right _ _
  refine ⟨t, ht, hdone.running, fun c hc l hl => ?_, fun c l hcl => ?_, fun id e hid => ?_, ?_, hdone.rest,
    fun _ => hdone.built, fun c hc X Y hX hY => ?_, fun key hkey => ?_⟩
  · rcases Nat.lt_succ_iff_lt_or_eq.mp hc with hlt | rfl
    · rw [hdone.other c l (.inl (Nat.ne_of_lt hlt))]
      exact hu.valid c hlt l hl
    · exact hdone.valid l (by omega)
  · rw [hdone.other c l (by omega), hu.other c l (by omega)]
  · rw [hdone.coef id e (hid.trans_le hbelow), hu.coef id e hid]
  · rw [hdone.nextBuf, hu.nextBuf, Nat.sub_add_cancel hlevels.1, Nat.mul_succ, Nat.add_mul, Nat.add_assoc]
  · rcases Nat.lt_succ_iff_lt_or_eq.mp hc with hlt | rfl
    · rw [hdone.samples.other _ (hJ.offChannel_of_ne (hlt.trans hk) hk (Nat.ne_of_lt hlt) hX hY)]
      exact hu.sample c hlt X Y hX hY
    · exact hdone.samples.sample X Y hX hY
  · rw [hdone.samples.other key (hkey k (Nat.lt_succ_self k))]
    exact hu.unwritten key fun c hc => hkey c (hc.trans (Nat.lt_succ_self k))

/-- The channels of a legal stream, one after the other. -/
theorem decodeChannels_done (hJ : J.Legal) (hv : Running J v) (hreset : ∀ c < 4, ∀ l < 3, levelAt v c l = Level.reset)
    (hs : streamRest v = J.channelsFrom 0 ++ rest) :
    ∃ t, forFrom 0 J.channels decodeChannel v = .ok () t ∧ ChannelsDone J J.channels rest v t := by
  refine forFrom_ok (fun k u => ChannelsDone J k rest v u) (fun k u hk hu => ?_) ?_
  · rw [Nat.zero_add]
    exact hu.turn hJ hk hreset
  · exact ⟨hv, nofun, fun _ _ _ => rfl, fun _ _ _ => rfl, by simp, hs, nofun, nofun, fun _ _ => rfl⟩

/-- DECODE of channels leaves the quantization registers alone. -/
theorem decodeChannels_quant {n : Nat} (h : forFrom 0 n decodeChannel v = .ok () t) : t.quant = v.quant := by
  have hrecon (lv : LevelRef) (dest : Sink) (prescale : BitVec 4) (clamp : Bool) :
      Keeps (fun u => u.quant = v.quant) (levelRecon lv dest prescale clamp) :=
    (within_levelRecon (W := [.element, .dest]) (by simp) (by simp) lv dest prescale clamp).keeps
      fun _ _ hf hs => (hf.hdr (by simp)).2.trans hs
  have hkeeps : Keeps (fun u => u.quant = v.quant) (forFrom 0 n decodeChannel) :=
    keeps_forFrom (fun c => keeps_decodeChannel
      (fun _ _ hf hs => (hf.hdr (by simp [channelPieces])).2.trans hs) hrecon c) _ _
  have hend := hkeeps v rfl
  rwa [h] at hend

/-! ## DECODE -/

/-- The job DECODE is given by a session, a header and its tokens. -/
def jobOf (s : State) (b : Binding) (ox oy : U16) (h : HeaderWord) (tokens : Nat → Nat → List (Nat × Int)) : Job :=
  ⟨h, tokens, b, ox, oy, prescaleAt s⟩

section
variable {b : Binding} {ox oy : U16} {h : HeaderWord} {tokens : Nat → Nat → List (Nat × Int)}

/-- The state in which DECODE goes on after a legal header. -/
def headerState (s : State) (ox oy : U16) (h : HeaderWord) : State :=
  afterFields h (27 + h.fields.numSubbands.toNat) (imageStart ox oy s)

theorem jobOf_legal (hready : decodeReady s b ox oy h tokens) : (jobOf s b ox oy h tokens).Legal := by
  obtain ⟨-, -, -, -, -, ⟨hheader, hwf⟩, hbody, hw, hh, -⟩ := hready
  exact ⟨hheader, hwf, hbody, hw, hh⟩

/-- The header of a legal stream is read, and the region fits. -/
theorem headerState_running (hready : decodeReady s b ox oy h tokens) :
    parseHeader readField (imageStart ox oy s) = .ok () (headerState s ox oy h) ∧
      Running (jobOf s b ox oy h tokens) (headerState s ox oy h) ∧
      ∃ rest, streamRest s = headerBits h ++ bodyBits h.fields tokens ++ rest ∧
        streamRest (headerState s ox oy h) = (jobOf s b ox oy h tokens).channelsFrom 0 ++ rest := by
  obtain ⟨hsess, hbind, hreset, htable, hwf, ⟨hheader, hhwf⟩, hbody, hw, hh, rest, hs⟩ := hready
  have hstart : streamRest (imageStart ox oy s) = headerPart h (27 + h.fields.numSubbands.toNat) ++
      (bodyBits h.fields tokens ++ rest) := by
    rw [← headerBits_eq_headerPart hhwf, ← List.append_assoc, ← hs]
    rfl
  have hparse : parseHeader readField (imageStart ox oy s) = .ok () (headerState s ox oy h) :=
    parseHeader_passes (b := b) hbind fieldReader_readField (fun j hj => supplies_readField hstart hj)
      (fieldFault_of_headerFault_none hheader)
  have hpath : Path [.pos, .hdr] (imageStart ox oy s) (headerState s ox oy h) :=
    (within_parseHeader (by simp) fun _ => within_bitRead (by simp) _).ok hparse
  have hcursor : cursorLegal (imageStart ox oy s) := by
    have hlen := streamRest_length (imageStart ox oy s)
    have hpos : 0 < (headerPart h (27 + h.fields.numSubbands.toNat)).length := by
      rw [headerPart_length, fieldStart_quant]
      omega
    rw [hstart, List.length_append] at hlen
    unfold cursorLegal
    omega
  have hbits := (headerSizes hheader)
  refine ⟨hparse, ⟨headerStored_all ?_ _ _, fun i hi => ?_, hbind, rfl, rfl, fun _ _ => rfl, hwf,
    htable, ?_⟩, rest, hs, ?_⟩
  · rw [fieldStart_quant]
    exact Nat.le_add_right _ _
  · have hi' : i < h.fields.numSubbands.toNat := hi
    obtain ⟨-, hlevels⟩ := hbits.levels
    have hbands := hbits.bands
    refine (quantAt_afterFields (by omega)).trans (if_pos ?_)
    rw [fieldStart_quant]
    omega
  · exact hpath.keeps (fun k _ a b hw => cursorLegal_invariant.write k a b hw) hcursor
  · rw [streamRest_of_pos (s := imageStart ox oy s) (u := headerState s ox oy h)
        (k := fieldStart (27 + h.fields.numSubbands.toNat)) rfl rfl rfl, hstart,
      List.drop_left' (headerPart_length _ _), ← Job.bodyBits_eq]
    rfl

theorem checkDestRegion_fits (hu : Running J u) (hJ : J.Legal) : checkDestRegion u = .ok () u := by
  have hw := hJ.fitsWidth
  have hh := hJ.fitsHeight
  rw [checkDestRegion, op_bind_of_ok (op_get u), hu.boundDest_eq, hu.hdr, hu.offx, hu.offy]
  exact failIf_neg (by omega) _ _ u

/-- DECODE of a legal stream: its channels are done, then it ends in DONE. -/
theorem decodeImage_done (hready : decodeReady s b ox oy h tokens) :
    ∃ rest t, streamRest s = headerBits h ++ bodyBits h.fields tokens ++ rest ∧
      ChannelsDone (jobOf s b ox oy h tokens) h.fields.numChannels.toNat rest (headerState s ox oy h) t ∧
      t.quant = (headerState s ox oy h).quant ∧ Path imagePieces (imageStart ox oy s) t ∧
      exec (.decode ox oy) s = .next (setResult .none (setSess .done
        (setSeq ⟨.fin, BitVec.ofNat 2 (h.fields.numChannels.toNat - 1), 0, 0, 0⟩ t))) := by
  have hJ := jobOf_legal hready
  obtain ⟨hparse, hrunning, rest, hs, hrest⟩ := headerState_running hready
  obtain ⟨hsess, -, hreset, -⟩ := hready
  obtain ⟨t, ht, hdone⟩ := decodeChannels_done hJ hrunning hreset hrest
  have hheader : Path imagePieces (imageStart ox oy s) (headerState s ox oy h) :=
    (within_parseHeader (by simp [imagePieces]) fun _ => within_bitRead (by simp [imagePieces]) _).ok hparse
  refine ⟨rest, t, hs, hdone, decodeChannels_quant ht,
    hheader.trans ((within_forFrom within_decodeChannel _ _).ok ht), finishUnit_of_ok ?_⟩
  have hnum : (headerState s ox oy h).hdr.numChannels.toNat = (jobOf s b ox oy h tokens).channels := by
    rw [hrunning.hdr]
  rw [decodeImage_apply, if_pos hsess, imageBody_done_eq, op_bind_of_ok hparse, imageTail,
    op_bind_of_ok (checkDestRegion_fits hrunning hJ), op_bind_of_ok (op_get _), hnum, op_bind_of_ok ht]
  rfl

end

end Sys2Proof.Machine
end

section
/-! THE STATEMENTS of DECODE on a legal stream (`44_channel_orchestrator.md` R197 to R205), settled. -/

namespace Sys2Proof.Settled
open Sys2Proof.Machine

/-- Settles O27. A channel's levels are done from the coarsest to the finest (`decodeLevels_done`), each with its bands
in buffers of its own; the channels follow one another (`ChannelsDone.turn`). -/
theorem decodeCompletes : Obligations.DecodeCompletes := by
  unfold Obligations.DecodeCompletes
  intro s b ox oy h tokens hready
  obtain ⟨rest, u, hs, hdone, hquant, hpath, hexec⟩ := decodeImage_done hready
  have hJ := jobOf_legal hready
  have hsizes := headerSizes hJ.header
  obtain ⟨hsess, hbind, hreset, -⟩ := hready
  have hf := hpath.frame
  obtain ⟨-, herr⟩ := hpath.session (by simp [imagePieces])
  have hbuilt : u.logtValid = true := hdone.built hsizes.channels.1
  have hlogt : u.logt = logTable := hdone.running.table.2 hbuilt
  -- what is left of the stream says where POS stands
  have hpos : u.pos = s.pos + (headerBits h).length + (bodyBits h.fields tokens).length := by
    have hbefore := streamRest_length s
    have hafter := streamRest_length u
    have hend : streamEnd u = streamEnd s := by rw [streamEnd, hf.binding]; rfl
    have hcursor : u.pos ≤ streamEnd u := hdone.running.cursor
    have hrest : streamRest u = rest := by
      have hnone : (jobOf s b ox oy h tokens).channelsFrom h.fields.numChannels.toNat = [] :=
        Job.channelsFrom_channels _
      rw [hdone.rest, hnone, List.nil_append]
    have hheader : (headerBits h).length = 320 + 16 * h.fields.numSubbands.toNat := headerBits_length hJ.wf
    rw [hrest] at hafter
    rw [hs, List.length_append, List.length_append] at hbefore
    omega
  refine ⟨_, hexec, ?_, fun i hi => ?_, fun c hc l hl => ?_, hdone.running.prescale, fun id e hid => ?_,
    fun key hkey => ?_⟩
  · have hhdr : u.hdr = h.fields := hdone.running.hdr
    have hoffx : u.offx = ox := hdone.running.offx
    have hoffy : u.offy = oy := hdone.running.offy
    have herr' : u.err = s.err := herr
    have hnext : u.nextBuf = s.nextBuf + 4 * h.fields.numChannels.toNat * h.fields.numWavelets.toNat := hdone.nextBuf
    have hbinding : u.binding = s.binding := hf.binding
    have hmem : u.mem = s.mem := hf.mem
    have hepoch : u.epoch = s.epoch := hf.epoch
    have hinbox : u.inbox = s.inbox := hf.inbox
    simp only [setResult, setSess, setSeq, hpos, herr', hhdr, hlogt, hbuilt, hnext, hoffx, hoffy, hbinding, hmem,
      hepoch, hinbox]
  · have hkept : quantAt u i = quantAt (headerState s ox oy h) i := by rw [quantAt, hquant, quantAt]
    refine hkept.trans ((quantAt_afterFields hi).trans ?_)
    rw [fieldStart_quant]
    exact if_congr (by omega) rfl rfl
  · split
    next hin => exact hdone.valid c hin.1 l hin.2
    next hout =>
      refine (hdone.other c l ?_).trans (hreset c hc l hl)
      exact (not_and_or.mp hout).imp Nat.le_of_not_lt Nat.le_of_not_lt
  · exact hdone.coef id e hid
  · refine hdone.unwritten key fun c hc X Y hX hY => ?_
    obtain ⟨hx, hy⟩ := hJ.place hc hX hY
    have hin {o a r n : Nat} (h : a + r < n) : o ≤ o + a + r ∧ o + a + r < o + n := by omega
    exact hkey _ _ (hin hx).1 (hin hx).2 (hin hy).1 (hin hy).2

/-- Settles O28: the samples are what `ChannelsDone` says of the channels done. -/
theorem decodeImage : Obligations.DecodeImage := by
  unfold Obligations.DecodeImage
  intro s b ox oy h tokens hready
  obtain ⟨rest, u, -, hdone, -, -, hexec⟩ := decodeImage_done hready
  exact ⟨_, hexec, fun c X Y hc hX hY => hdone.sample c hc X Y hX hY⟩

end Sys2Proof.Settled
end

section
/-! SUPPORT. Errors (`60_exceptions.md`): what the host interface refuses (R236), what taking an error latches (R224),
that every instruction and every step answers (R236), and how an admitted DECODE ends. -/

namespace Sys2Proof.Machine

variable {s t : State}

/-! ## What the host interface refuses (R236) -/

theorem refuseCommand_eq (code : BitVec 8) (s : State) :
    refuseCommand code s = .next (trapped .badCommand code.toNat s) := finishUnit_of_raised (op_raise _ _ s)

theorem runHost_refused {code : BitVec 8} (hc : 4 < code.toNat) (ports : Ports) (s : State) :
    runHost code ports s = .next (trapped .badCommand code.toNat s) := by
  have hm : ¬hostMayIssue code = true := by simpa [hostMayIssue] using hc
  rw [runHost, if_neg hm, refuseCommand_eq]

theorem exec_construct_sessionState (input : InHandle) (dest : DestHandle) (hs : s.sess ≠ .idle) :
    exec (.construct input dest) s = .next (trapped .sessionState (sessCode s.sess).toNat s) := by
  rw [exec_construct, if_pos hs]

theorem exec_decode_sessionState (x y : U16) (hs : s.sess ≠ .ready) :
    exec (.decode x y) s = .next (trapped .sessionState (sessCode s.sess).toNat s) :=
  finishUnit_of_raised ((decodeImage_apply x y s).trans (if_neg hs))

/-! ## Taking an error (R224) -/

theorem takeError_info {c : Cause} {info : Nat} (h : s.sess ≠ .faulted) :
    (takeError c info s).err.info = BitVec.ofNat 32 info := by rw [takeError_eq h]

/-- In FAULTED no instruction but RESET changes SESS or ERR: CONSTRUCT and DECODE do so from IDLE and READY only, and
an error changes nothing there (R227, R228). -/
theorem exec_faulted {i : Instr} (h : exec i s = .next t) (hi : i ≠ .reset) (hs : s.sess = .faulted) :
    t.sess = .faulted ∧ t.err = s.err := by
  rcases exec_cases h with ⟨hreset, -⟩ | ⟨input, dest, -, hidle, -, -⟩ | hreach
  · exact absurd hreset hi
  · exact absurd (hs.symm.trans hidle) nofun
  · rcases exec_session hreach h with (⟨hsess, herr⟩ | ⟨hne, -, -⟩) | ⟨-, hready, -, -⟩
    · exact ⟨hsess.trans hs, herr⟩
    · exact absurd hs hne
    · exact absurd (hs.symm.trans hready) nofun

/-! ## Every instruction and every step answers (R236, R260) -/

theorem exec_answers (i : Instr) (s : State) : ∃ t, exec i s = .next t := by
  cases i with
  | status => exact ⟨_, rfl⟩
  | brAtEnd => exact ⟨_, rfl⟩
  | logBuild => exact finish_answers (logBuild >>= fun _ => pure .none) s
  | _ => exact finish_answers _ s

theorem runRequest_answers (r : Request) (s : State) : ∃ t, runRequest r s = .next t := by
  have hrefuse (code : BitVec 8) : ∃ t, refuseCommand code s = .next t := ⟨_, refuseCommand_eq code s⟩
  have hdecoded (code : BitVec 8) (ports : Ports) : ∃ t, runUnit code ports s = .next t := by
    unfold runUnit
    split
    · exact exec_answers _ s
    · exact hrefuse code
  cases r with
  | host code ports =>
    simp only [runRequest, runHost]
    split
    · exact hdecoded code ports
    · exact hrefuse code
  | unit code ports => exact hdecoded code ports
  | stream f =>
    simp only [runRequest, runStream]
    split
    · exact exec_answers _ s
    · cases f <;> exact finish_answers _ s

theorem step_answers (s : State) : ∃ t, step s = .next t := by
  cases hq : s.inbox with
  | nil => exact ⟨s, step_idle hq⟩
  | cons r rest =>
    rw [step_request hq]
    exact runRequest_answers r _

/-! ## DECODE in READY -/

/-- An admitted DECODE ends in DONE with ERR as it was, or in the state its body's error left. -/
theorem exec_decode_ready {x y : U16} (hs : s.sess = .ready) (h : exec (.decode x y) s = .next t) :
    (t.sess = .done ∧ t.err = s.err ∧ ∃ u, imageBody (imageStart x y s) = .ok () u) ∨
      ∃ u, imageBody (imageStart x y s) = .error .raised u ∧ t = setResult .none u ∧ u.sess = .faulted := by
  have hop := decodeImage_apply x y s
  rw [if_pos hs] at hop
  cases hb : imageBody (imageStart x y s) with
  | ok a u =>
    rw [op_bind_of_ok hb] at hop
    obtain rfl := Host.Outcome.next.inj ((finishUnit_of_ok hop).symm.trans h)
    exact .inl ⟨rfl, ((within_imageBody.ok hb).session (by simp [imagePieces])).2, u, rfl⟩
  | error e u =>
    rw [op_bind_of_error hb] at hop
    obtain rfl := Host.Outcome.next.inj ((finishUnit_of_raised hop).symm.trans h)
    obtain ⟨v, c, info, -, rfl⟩ := within_imageBody.error hb
    exact .inr ⟨_, rfl, rfl, takeError_sess c info v⟩

end Sys2Proof.Machine
end

section
/-! THE STATEMENTS of `60_exceptions.md` about admission and errors, settled. -/

namespace Sys2Proof.Settled
open Sys2Proof.Machine

/-- Settles O7. -/
theorem hostAdmission : Obligations.HostAdmission := by
  unfold Obligations.HostAdmission
  refine ⟨fun s rest code ports hq hc => ?_, fun s input dest => exec_construct_sessionState input dest,
    fun s c l p => exec_config_sessionState c l p, fun s x y => exec_decode_sessionState x y⟩
  rw [step_request hq]
  exact runHost_refused hc ports _

/-- Settles O8. -/
theorem errorTaken : Obligations.ErrorTaken := by
  unfold Obligations.ErrorTaken
  refine ⟨by decide, mem_allCauses, fun c info s => takeError_faulted, fun c info s hs => ⟨?_, ?_⟩⟩
  · rw [takeError_info hs, BitVec.toNat_ofNat]
  · rw [takeError_info hs]
    exact takeError_eq hs

/-- Settles O9. -/
theorem firstErrorStays : Obligations.FirstErrorStays := by
  unfold Obligations.FirstErrorStays
  exact fun i s t => exec_faulted

/-- Settles O29: an operation answers a next state whether it completes or raises, and of the two an admitted DECODE
makes DONE and FAULTED. -/
theorem alwaysAnswers : Obligations.AlwaysAnswers := by
  unfold Obligations.AlwaysAnswers
  refine ⟨step_answers, exec_answers, fun s ox oy hs => ?_⟩
  obtain ⟨t, ht⟩ := exec_answers (.decode ox oy) s
  refine ⟨t, ht, ?_⟩
  rcases exec_decode_ready hs ht with ⟨hdone, herr, -⟩ | ⟨u, -, rfl, hfault⟩
  · exact .inl ⟨hdone, herr⟩
  · exact .inr hfault

end Sys2Proof.Settled
end

section
/-! SUPPORT. Which errors an operation of DECODE can record (`60_exceptions.md` R220, R221): rules for one operation
after another, what the token reader and the expansion can raise, and that no operation on a channel raises
DestRegion. -/

namespace Sys2Proof.Machine

variable {W : List Piece} {s t u : State} {α β : Type} {C C' : Cause → Prop} {I : State → Prop}

/-! ## Errors of causes in a set -/

/-- An error is recorded, and its cause is in `C`. -/
def Records (C : Cause → Prop) (t : State) : Prop :=
  t.sess = .faulted ∧ ∃ c, C c ∧ t.err.kind = causeKind c ∧ t.err.cause = causeCode c

theorem records_takeError {c : Cause} (hc : C c) (info : Nat) (hs : s.sess ≠ .faulted) :
    Records C (takeError c info s) := by
  rw [takeError_eq hs]
  exact ⟨rfl, c, hc, rfl, rfl⟩

theorem Records.mono (h : Records C t) (hC : ∀ c, C c → C' c) : Records C' t := by
  obtain ⟨hs, c, hc, hkind, hcause⟩ := h
  exact ⟨hs, c, hC c hc, hkind, hcause⟩

theorem causeCode_injective : Function.Injective causeCode := fun c c' h =>
  List.inj_on_of_nodup_map (by decide : (allCauses.map causeCode).Nodup) (mem_allCauses c) (mem_allCauses c') h

/-- An end of an operation: it answered with `Q`, or recorded an error of a cause in `C`. -/
def EndsBy (C : Cause → Prop) (Q : α → State → Prop) : EStateM.Result Stop State α → Prop
  | .ok a t => Q a t
  | .error _ t => Records C t

theorem EndsBy.of_ok {Q : α → State → Prop} {op : Op α} {a : α} (h : op s = .ok a t) (hQ : Q a t) :
    EndsBy C Q (op s) := by
  rw [h]
  exact hQ

theorem EndsBy.imp {Q Q' : α → State → Prop} {r : EStateM.Result Stop State α} (h : EndsBy C Q r)
    (hC : ∀ c, C c → C' c) (hQ : ∀ a t, Q a t → Q' a t) : EndsBy C' Q' r := by
  cases r with
  | ok a t => exact hQ a t h
  | error e t => exact Records.mono h hC

theorem EndsBy.bind {Q : α → State → Prop} {R : β → State → Prop} {x : Op α} {f : α → Op β} (hx : EndsBy C Q (x s))
    (hf : ∀ a u, x s = .ok a u → Q a u → EndsBy C R (f a u)) : EndsBy C R ((x >>= f) s) := by
  rw [op_bind]
  cases hxs : x s with
  | ok a u =>
    rw [hxs] at hx
    exact hf a u hxs hx
  | error e u =>
    rw [hxs] at hx
    exact hx

/-- A loop whose turns take `P k` to `P (k + 1)`, or record an error. -/
theorem EndsBy.forFrom {f : Nat → Op Unit} (P : Nat → State → Prop) {start n : Nat}
    (hf : ∀ k < n, ∀ u, P k u → EndsBy C (fun _ => P (k + 1)) (f (start + k) u)) (h0 : P 0 s) :
    EndsBy C (fun _ => P n) (forFrom start n f s) := by
  induction n generalizing start P s with
  | zero => exact h0
  | succ n ih =>
    refine EndsBy.bind (Q := fun _ => P 1) (hf 0 (by omega) s h0) fun _ u _ hu => ?_
    refine ih (fun k => P (k + 1)) (fun k hk v hv => ?_) hu
    rw [show start + 1 + k = start + (k + 1) by omega]
    exact hf (k + 1) (by omega) v hv

/-- From a state with `I` the operation answers in a state with `I`, or records an error of a cause in `C`. -/
def Raises (I : State → Prop) (C : Cause → Prop) (op : Op α) : Prop := ∀ s, I s → EndsBy C (fun _ => I) (op s)

theorem Raises.mono {op : Op α} (h : Raises I C op) (hC : ∀ c, C c → C' c) : Raises I C' op :=
  fun s hs => (h s hs).imp hC fun _ _ => id

theorem raises_pure (a : α) : Raises I C (pure a : Op α) := fun _ hs => hs
theorem raises_get : Raises I C (get : Op State) := fun _ hs => hs
theorem raises_modify {f : State → State} (hf : ∀ s, I s → I (f s)) : Raises I C (modify f : Op PUnit) := hf

/-- Two parts in sequence, where the second may count on what the first answered. -/
theorem raises_bind_of_ok {x : Op α} {f : α → Op β} (hx : Raises I C x)
    (hf : ∀ s a u, I s → x s = .ok a u → Raises I C (f a)) : Raises I C (x >>= f) :=
  fun s hs => (hx s hs).bind fun a u hxs hu => hf s a u hs hxs u hu

theorem raises_bind {x : Op α} {f : α → Op β} (hx : Raises I C x) (hf : ∀ a, Raises I C (f a)) :
    Raises I C (x >>= f) := raises_bind_of_ok hx fun _ a _ _ _ => hf a

theorem raises_forFrom {f : Nat → Op Unit} {start n : Nat} (hf : ∀ k < n, Raises I C (f (start + k))) :
    Raises I C (forFrom start n f) := fun _ hs => .forFrom (fun _ => I) hf hs

theorem raises_mapFrom {f : Nat → Op α} (hf : ∀ i, Raises I C (f i)) (start n : Nat) :
    Raises I C (mapFrom start n f) := by
  induction n generalizing start with
  | zero => exact raises_pure _
  | succ n ih => exact raises_bind (hf start) fun _ => raises_bind (ih (start + 1)) fun _ => raises_pure _

/-- DECODE is at work, so an error is recorded (R224). -/
def AtWork (s : State) : Prop := s.sess = .running

theorem AtWork.not_faulted (h : AtWork s) : s.sess ≠ .faulted := by
  rw [h]
  exact nofun

theorem AtWork.path (h : AtWork s) (hp : Path W s t) (hW : .sess ∉ W) : AtWork t := (hp.session hW).1.trans h

theorem raises_raise {c : Cause} (hc : C c) (info : Nat) : Raises AtWork C (raise c info : Op α) :=
  fun _ hs => records_takeError hc info hs.not_faulted

theorem raises_failIf {c : Cause} (hc : C c) (p : Prop) [Decidable p] (info : Nat) :
    Raises AtWork C (failIf p c info) := by
  unfold failIf
  split
  · exact raises_raise hc info
  · exact raises_pure _

/-- What an operation can raise in DECODE, with a further property that its writes keep. -/
theorem Raises.keeping {op : Op α} (h : Raises AtWork C op) (hw : Within W op) (hI : ∀ s t, Path W s t → I s → I t)
    (hrun : ∀ s, I s → AtWork s) : Raises I C op := by
  intro s hs
  have hend := h s (hrun s hs)
  cases ho : op s with
  | ok a t => exact hI s t (hw.ok ho) hs
  | error e t =>
    rw [ho] at hend
    exact hend

/-- An operation that answers from every state with `I`. -/
theorem raises_of_answers {op : Op α} (hw : Within W op) (hI : ∀ s t, Path W s t → I s → I t)
    (h : ∀ s, I s → ∃ a t, op s = .ok a t) : Raises I C op := by
  intro s hs
  obtain ⟨a, t, ho⟩ := h s hs
  exact .of_ok ho (hI s t (hw.ok ho) hs)

theorem EndsBy.within {Q : α → State → Prop} {op : Op α} (h : EndsBy C Q (op s)) (hw : Within W op) :
    EndsBy C (fun a t => Q a t ∧ Path W s t) (op s) := by
  cases ho : op s with
  | ok a t =>
    rw [ho] at h
    exact ⟨h, hw.ok ho⟩
  | error e t =>
    rw [ho] at h
    exact h

/-! ## The token reader and the expansion (R222: CorruptBitstream only) -/

/-- The causes of kind CorruptBitstream (R220). -/
abbrev Corrupt (c : Cause) : Prop := causeKind c = 2

theorem raises_bitRead {n : Nat} (hn : n ≤ 32) : Raises AtWork Corrupt (bitRead n) := by
  intro s hs
  by_cases hfits : s.pos + n ≤ streamEnd s
  · exact .of_ok (bitRead_fits hn hfits) hs
  · rw [bitRead_overrun hn (by omega)]
    exact records_takeError (by decide) _ hs.not_faulted

theorem raises_readZeros (left z : Nat) : Raises AtWork Corrupt (readZeros left z) := by
  induction left generalizing z with
  | zero =>
    refine raises_bind (raises_bitRead (by decide)) fun b => ?_
    split
    · exact raises_bind raises_get fun _ => raises_raise (by decide) _
    · exact raises_pure _
  | succ left ih =>
    refine raises_bind (raises_bitRead (by decide)) fun b => ?_
    split
    · exact ih (z + 1)
    · exact raises_pure _

/-- No more zeros are counted than are allowed (`40_bitreader_rlv.md` R125). -/
theorem readZeros_le {left z a : Nat} (h : readZeros left z s = .ok a t) : a ≤ left + z := by
  induction left generalizing z s with
  | zero =>
    obtain ⟨b, u, -, hend⟩ := op_bind_ok h
    split at hend
    · cases hend
    · cases hend
      omega
  | succ left ih =>
    obtain ⟨b, u, -, hend⟩ := op_bind_ok h
    split at hend
    · have := ih hend
      omega
    · cases hend
      omega

theorem raises_readCode : Raises AtWork Corrupt readCode :=
  raises_bind_of_ok (raises_readZeros _ _) fun _ _ _ _ hz =>
    raises_bind (raises_bitRead ((readZeros_le hz).trans (by decide))) fun _ => raises_pure _

theorem raises_readToken : Raises AtWork Corrupt readToken := by
  refine raises_bind raises_readCode fun run => raises_bind raises_readCode fun m => ?_
  split
  · exact raises_pure _
  · exact raises_bind (raises_bitRead (by decide)) fun _ => raises_pure _

theorem raises_logDecode (v : Int) : Raises AtWork Corrupt (logDecode v) := by
  have htable : Raises AtWork Corrupt ensureTable :=
    raises_of_answers (W := [.logt]) (within_ensureTable List.mem_cons_self) (fun _ _ hp hs => hs.path hp (by simp))
      fun s _ => ⟨_, _, ensureTable_eq s⟩
  exact raises_bind htable fun _ => raises_bind (raises_failIf (by decide) (v.natAbs > 4095) _) fun _ =>
    raises_bind raises_get fun _ => raises_pure _

/-! ## A channel raises no DestRegion -/

/-- Every cause but DestRegion. -/
abbrev NotRegion (c : Cause) : Prop := c ≠ .destRegion

theorem notRegion_of_corrupt (c : Cause) (hc : Corrupt c) : NotRegion c := by
  rintro rfl
  exact absurd hc (by decide)

theorem raises_checkDescriptor (p : Plane) : Raises AtWork NotRegion (checkDescriptor p) := by
  refine raises_bind raises_get fun s => ?_
  split
  · exact raises_raise (by decide) _
  · exact raises_pure _

theorem raises_checkAccess (p : Plane) (x y : Nat) : Raises AtWork NotRegion (checkAccess p x y) :=
  raises_bind (raises_checkDescriptor p) fun _ => raises_bind (raises_failIf (by decide) _ _) fun _ => raises_pure _

theorem raises_planeRead (p : Plane) (x y : Nat) : Raises AtWork NotRegion (planeRead p x y) :=
  raises_bind (raises_checkAccess p x y) fun _ => raises_pure _

theorem raises_planeWrite (p : Plane) (x y : Nat) (v : Coef) : Raises AtWork NotRegion (planeWrite p x y v) :=
  raises_bind (raises_checkAccess p x y) fun _ => raises_modify fun _ hs => hs

theorem raises_planeView (p : Plane) (x0 y0 w h : U16) : Raises AtWork NotRegion (planeView p x0 y0 w h) :=
  raises_bind (raises_checkDescriptor p) fun _ => raises_bind (raises_failIf (by decide) _ _) fun _ =>
    raises_bind (raises_failIf (by decide) _ _) fun _ => raises_pure _

theorem raises_planeCreate (w h : U16) : Raises AtWork NotRegion (planeCreate w h) :=
  raises_bind (raises_failIf (by decide) _ _) fun _ => raises_bind raises_get fun _ =>
    raises_bind (raises_modify fun _ hs => hs) fun _ => raises_pure _

theorem raises_fetchLevel (lv : LevelRef) : Raises AtWork NotRegion (fetchLevel lv) :=
  raises_bind (raises_failIf (by decide) _ _) fun _ => raises_bind raises_get fun _ => raises_pure _

theorem raises_fetchBandLevel (lv : LevelRef) (b : Nat) : Raises AtWork NotRegion (fetchBandLevel lv b) :=
  raises_bind (raises_fetchLevel lv) fun _ => raises_bind (raises_failIf (by decide) _ _) fun _ =>
    raises_bind (raises_failIf (by decide) _ _) fun _ => raises_pure _

theorem raises_levelInit (lv : LevelRef) (w h : U16) (n : Nat) : Raises AtWork NotRegion (levelInit lv w h n) :=
  raises_bind (raises_fetchLevel lv) fun _ => raises_bind (raises_failIf (by decide) _ _) fun _ =>
    raises_bind (raises_failIf (by decide) _ _) fun _ => raises_bind (raises_failIf (by decide) _ _) fun _ =>
      raises_bind (raises_modify fun _ hs => hs) fun _ => raises_bind
        (raises_forFrom fun _ _ => raises_bind (raises_planeCreate w h) fun _ => raises_modify fun _ hs => hs)
        fun _ => raises_modify fun _ hs => hs

theorem raises_levelSetValid (lv : LevelRef) (b : Nat) : Raises AtWork NotRegion (levelSetValid lv b) :=
  raises_bind (raises_fetchBandLevel lv b) fun _ => raises_modify fun _ hs => hs

theorem raises_levelBandPlane (lv : LevelRef) (b : Nat) : Raises AtWork NotRegion (levelBandPlane lv b) :=
  raises_bind (raises_fetchBandLevel lv b) fun _ => raises_planeView _ _ _ _ _

theorem raises_levelDequant (out inp : Plane) (q : U16) : Raises AtWork NotRegion (levelDequant out inp q) :=
  raises_bind (raises_checkDescriptor out) fun _ => raises_bind (raises_checkDescriptor inp) fun _ =>
    raises_bind (raises_failIf (by decide) _ _) fun _ => raises_forFrom fun _ _ => raises_forFrom fun _ _ =>
      raises_bind (raises_planeRead _ _ _) fun _ => raises_planeWrite _ _ _ _

theorem raises_bandFetch (lev : Level) (k x y : Nat) : Raises AtWork NotRegion (bandFetch lev k x y) := by
  unfold bandFetch
  split
  · exact raises_bind (raises_planeRead _ _ _) fun _ => raises_pure _
  · exact raises_pure _

theorem raises_synth2D (lev : Level) : Raises AtWork NotRegion (synth2D lev) := by
  have hline (k y : Nat) : Raises AtWork NotRegion (bandLine lev k y) :=
    raises_mapFrom (fun x => raises_bandFetch lev k x y) _ _
  exact raises_bind (raises_mapFrom (fun y => raises_bind (hline 0 y) fun _ => raises_bind (hline 1 y) fun _ =>
    raises_bind (hline 2 y) fun _ => raises_bind (hline 3 y) fun _ => raises_pure _) _ _) fun _ => raises_pure _

theorem raises_checkSink (dest : Sink) (w2 h2 : Nat) (clamp : Bool) :
    Raises AtWork NotRegion (checkSink dest w2 h2 clamp) := by
  cases dest with
  | plane p =>
    exact raises_bind (raises_checkDescriptor p) fun _ => raises_bind (raises_failIf (by decide) _ _) fun _ =>
      raises_forFrom fun _ _ => raises_forFrom fun _ _ => raises_bind (raises_checkAccess _ _ _) fun _ => raises_pure _
  | image c =>
    exact raises_bind (raises_failIf (by decide) _ _) fun _ => raises_bind raises_get fun _ =>
      raises_failIf (by decide) _ _

theorem raises_sinkWrite (dest : Sink) (X Y : Nat) (v : Int) : Raises AtWork NotRegion (sinkWrite dest X Y v) := by
  cases dest with
  | plane p => exact raises_planeWrite _ _ _ _
  | image c =>
    refine raises_modify fun s hs => ?_
    split <;> exact hs

theorem raises_levelRecon (lv : LevelRef) (dest : Sink) (prescale : BitVec 4) (clamp : Bool) :
    Raises AtWork NotRegion (levelRecon lv dest prescale clamp) :=
  raises_bind (raises_fetchLevel lv) fun lev => raises_bind (raises_failIf (by decide) _ _) fun _ =>
    raises_bind (raises_checkSink _ _ _ _) fun _ => raises_bind (raises_synth2D lev) fun _ =>
      raises_bind raises_get fun _ => raises_forFrom fun _ _ => raises_forFrom fun _ _ => raises_sinkWrite _ _ _ _

theorem raises_moveSeq (phase : Phase) (c l b : Nat) : Raises AtWork C (moveSeq phase c l b) :=
  raises_modify fun _ hs => hs

theorem raises_placeToken (p : Plane) (n idx : Nat) : Raises AtWork NotRegion (placeToken p n idx) :=
  raises_bind (raises_readToken.mono notRegion_of_corrupt) fun t => raises_bind (raises_failIf (by decide) _ _) fun _ =>
    raises_bind (raises_forFrom fun _ _ => raises_planeWrite _ _ _ _) fun _ =>
      raises_bind ((raises_logDecode t.2).mono notRegion_of_corrupt) fun _ =>
        raises_bind (raises_planeWrite _ _ _ _) fun _ => raises_bind (raises_modify fun _ hs => hs) fun _ =>
          raises_pure _

theorem raises_fillBand (lv : LevelRef) (b : Nat) : Raises AtWork NotRegion (fillBand lv b) := by
  have hfill (p : Plane) (n rounds idx : Nat) : Raises AtWork NotRegion (fillFrom p n rounds idx) := by
    induction rounds generalizing idx with
    | zero => exact raises_pure _
    | succ rounds ih =>
      unfold fillFrom
      split
      · exact raises_bind (raises_placeToken p n idx) ih
      · exact raises_pure _
  exact raises_bind (raises_levelBandPlane lv b) fun _ => raises_bind (hfill _ _ _ _) fun _ =>
    raises_levelSetValid lv b

theorem raises_ensureLevel (c l w h : Nat) : Raises AtWork NotRegion (ensureLevel c l w h) := by
  refine raises_bind raises_get fun s => ?_
  split
  · exact raises_pure _
  · exact raises_levelInit _ _ _ _

theorem raises_fillCodedBand (c l numLevels b : Nat) : Raises AtWork NotRegion (fillCodedBand c l numLevels b) :=
  raises_bind (raises_moveSeq _ _ _ _) fun _ => raises_bind (raises_modify fun _ hs => hs) fun _ => raises_fillBand _ _

theorem raises_dequantBand (c l b : Nat) : Raises AtWork NotRegion (dequantBand c l b) :=
  raises_bind (raises_levelBandPlane _ _) fun _ => raises_bind (raises_moveSeq _ _ _ _) fun _ =>
    raises_bind raises_get fun _ => raises_levelDequant _ _ _

theorem raises_decodeLevel (c numLevels l : Nat) : Raises AtWork NotRegion (decodeLevel c numLevels l) := by
  refine raises_bind raises_get fun s => raises_bind (raises_ensureLevel _ _ _ _) fun _ =>
    raises_bind (raises_forFrom fun _ _ => raises_fillCodedBand _ _ _ _) fun _ =>
      raises_bind (raises_forFrom fun _ _ => raises_dequantBand _ _ _) fun _ => ?_
  split
  · exact raises_bind (raises_moveSeq _ _ _ _) fun _ => raises_levelRecon _ _ _ _
  · exact raises_bind (raises_ensureLevel _ _ _ _) fun _ => raises_bind (raises_levelBandPlane _ _) fun _ =>
      raises_bind (raises_moveSeq _ _ _ _) fun _ => raises_bind (raises_levelRecon _ _ _ _) fun _ =>
        raises_levelSetValid _ _

theorem raises_decodeChannel (c : Nat) : Raises AtWork NotRegion (decodeChannel c) := by
  have hlevels (numLevels k : Nat) : Raises AtWork NotRegion (decodeLevels c numLevels k) := by
    induction k with
    | zero => exact raises_pure _
    | succ k ih => exact raises_bind (raises_decodeLevel c numLevels k) fun _ => ih
  exact raises_bind raises_get fun _ => hlevels _ _

end Sys2Proof.Machine
end

section
/-! SUPPORT. What DECODE does with the bits at POS as a header (`44_channel_orchestrator.md` R195 to R198): a legal
header stands there and the region is checked, or a check of the header or its end raises. -/

namespace Sys2Proof.Machine

variable {s t : State} {b : Binding} {h : HeaderWord} {x y : U16}

/-! ## Bits as a header -/

/-- Enough bits start with any number of words. -/
theorem exists_wordsBits {w : Nat} (count : Nat) {bs : List Bool} (hlen : count * w ≤ bs.length) :
    ∃ (l : List (BitVec w)) (rest : List Bool), l.length = count ∧ bs = wordsBits l ++ rest ∧
      rest.length + count * w = bs.length := by
  induction count generalizing bs with
  | zero => exact ⟨[], bs, rfl, rfl, by omega⟩
  | succ count ih =>
    rw [Nat.succ_mul] at hlen ⊢
    obtain ⟨hlt, hword⟩ := bitsToNat_spec (bs.take w)
    rw [List.length_take, Nat.min_eq_left (by omega)] at hlt hword
    obtain ⟨l, rest, hl, hrest, hleft⟩ := ih (bs := bs.drop w) (by rw [List.length_drop]; omega)
    rw [List.length_drop] at hleft
    refine ⟨⟨_, hlt⟩ :: l, rest, by rw [List.length_cons, hl], ?_, by omega⟩
    calc bs
      _ = bs.take w ++ bs.drop w := (List.take_append_drop w bs).symm
      _ = natToBits w (bitsToNat (bs.take w)) ++ (wordsBits l ++ rest) := by rw [hword, ← hrest]
      _ = wordsBits ((⟨_, hlt⟩ : BitVec w) :: l) ++ rest := (List.append_assoc _ _ _).symm

/-- The bits of the longest header (R93). -/
def longestHeader : Nat := 320 + 16 * 65535

/-- That many bits start with a header, legal or not. -/
theorem exists_headerBits {bs : List Bool} (hlen : longestHeader ≤ bs.length) :
    ∃ (h : HeaderWord) (rest : List Bool), h.wf ∧ bs = headerBits h ++ rest := by
  unfold longestHeader at hlen
  obtain ⟨scalars, bs₁, hscalars, rfl, h₁⟩ := exists_wordsBits (w := 16) 10 (bs := bs) (by omega)
  obtain ⟨ids, bs₂, hids, rfl, h₂⟩ := exists_wordsBits (w := 8) 16 (bs := bs₁) (by omega)
  obtain ⟨number, bs₃, hnumber, rfl, h₃⟩ := exists_wordsBits (w := 32) 1 (bs := bs₂) (by omega)
  obtain ⟨number, rfl⟩ := List.length_eq_one_iff.mp hnumber
  obtain ⟨f, rfl, rfl, rfl⟩ := exists_hdrFields hscalars hids number
  have hcount := f.numSubbands.isLt
  obtain ⟨quant, rest, hquant, rfl, -⟩ := exists_wordsBits (w := 16) f.numSubbands.toNat (bs := bs₃) (by omega)
  exact ⟨⟨f, quant⟩, rest, hquant, by simp [headerBits_eq, wordsBits]⟩

/-- Bits of any number start with a header, or are a header cut short. -/
theorem headerBits_or_cut (bs : List Bool) :
    ∃ h : HeaderWord, h.wf ∧
      ((∃ rest, bs = headerBits h ++ rest) ∨ ∃ k < (headerBits h).length, bs = (headerBits h).take k) := by
  obtain ⟨h, rest, hwf, hbs⟩ := exists_headerBits (bs := bs ++ List.replicate longestHeader false)
    (by rw [List.length_append, List.length_replicate]; omega)
  refine ⟨h, hwf, ?_⟩
  rcases List.append_eq_append_iff.mp hbs with ⟨more, hmore, -⟩ | ⟨more, hmore, -⟩
  · rcases more with _ | ⟨bit, more⟩
    · exact .inl ⟨[], by rw [hmore, List.append_nil, List.append_nil]⟩
    · exact .inr ⟨bs.length, by rw [hmore]; simp, by rw [hmore, List.take_left]⟩
  · exact .inl ⟨more, hmore⟩

/-! ## What HDR.PARSE makes of them -/

/-- The causes of kinds UnsupportedStream and CorruptBitstream (R220). -/
abbrev BadStream (c : Cause) : Prop := causeKind c = 1 ∨ causeKind c = 2

/-- The checks of R196 raise UnsupportedStream. -/
theorem headerFault_kind {f : HdrFields} {depth k info : Nat} {c : Cause}
    (hf : headerFault f depth = some (k, c, info)) : causeKind c = 1 := by
  rw [headerFault, Option.map_eq_some_iff] at hf
  obtain ⟨⟨k', fails, c', i⟩, hfind, heq⟩ := hf
  obtain ⟨rfl, rfl, rfl⟩ : k' = k ∧ c' = c ∧ i = info := by simpa using heq
  have hall : ∀ e ∈ headerChecks f depth, causeKind e.2.2.1 = 1 := by
    simp [headerChecks, causeKind]
  exact hall _ (List.mem_of_find?_eq_some hfind)

/-- HDR.PARSE finds a legal header at POS, or traps with an error of the stream. -/
theorem hdrParse_cases (hb : s.binding = some b) :
    (∃ h rest, headerLegal h b.dest.depth ∧ streamRest s = headerBits h ++ rest) ∨
      ∃ c info u, BadStream c ∧ exec .hdrParse s = .next (trapped c info u) ∧ u.sess = s.sess := by
  obtain ⟨h, hwf, hbits⟩ := headerBits_or_cut (streamRest s)
  cases hfault : headerFault h.fields b.dest.depth with
  | none =>
    rcases hbits with ⟨rest, hs⟩ | ⟨k, hk, hs⟩
    · exact .inl ⟨h, rest, ⟨hfault, hwf⟩, hs⟩
    · exact .inr ⟨_, _, _, .inr rfl, hdrParse_overruns hb hwf hk (by simp [hfault]) hs, rfl⟩
  | some fault =>
    obtain ⟨f, c, info⟩ := fault
    have htrap {rest : List Bool} (hs : streamRest s = (headerBits h).take (16 * f) ++ rest) :
        ∃ c info u, BadStream c ∧ exec .hdrParse s = .next (trapped c info u) ∧ u.sess = s.sess :=
      ⟨_, _, _, .inl (headerFault_kind hfault), hdrParse_fails hb hfault hs, rfl⟩
    rcases hbits with ⟨rest, hs⟩ | ⟨k, hk, hs⟩
    · refine .inr (htrap (rest := (headerBits h).drop (16 * f) ++ rest) ?_)
      rw [hs, ← List.append_assoc, List.take_append_drop]
    · by_cases hkf : k < 16 * f
      · refine .inr ⟨_, _, _, .inr rfl, hdrParse_overruns hb hwf hk (fun f' c' i' heq => ?_) hs, rfl⟩
        obtain ⟨rfl, -⟩ := Prod.mk.inj (Option.some.inj (hfault.symm.trans heq))
        exact hkf
      · refine .inr (htrap (rest := ((headerBits h).take k).drop (16 * f)) ?_)
        have htake : (headerBits h).take (16 * f) = ((headerBits h).take k).take (16 * f) := by
          rw [List.take_take, Nat.min_eq_left (by omega)]
        rw [hs, htake, List.take_append_drop]

/-! ## The start of DECODE -/

theorem atWork_imageStart (x y : U16) (s : State) : AtWork (imageStart x y s) := rfl

/-- DECODE reads a legal header at POS to its end. -/
theorem parseHeader_imageStart (hb : s.binding = some b) (hlegal : headerLegal h b.dest.depth) {rest : List Bool}
    (hs : streamRest s = headerBits h ++ rest) :
    parseHeader readField (imageStart x y s) = .ok () (headerState s x y h) := by
  obtain ⟨hfault, hwf⟩ := hlegal
  have hstart : streamRest (imageStart x y s) = headerPart h (27 + h.fields.numSubbands.toNat) ++ rest := by
    rw [← headerBits_eq_headerPart hwf]
    exact hs
  exact parseHeader_passes (b := b) hb fieldReader_readField (fun j hj => supplies_readField hstart hj)
    (fieldFault_of_headerFault_none hfault)

/-- With no buffer bound there is no first field to read (log 12). -/
theorem parseHeader_unbound (hb : s.binding = none) :
    parseHeader readField s = .error .raised (takeError .readerOverrun s.pos s) := by
  have hend : streamEnd s = 0 := by rw [streamEnd, hb]
  exact op_bind_of_error (bitRead_overrun (n := 16) (by decide) (by omega))

/-- Of a session at work HDR.PARSE answers on a legal header at POS only; else it records an error of the stream. -/
theorem parseHeader_cases (hs : AtWork s) :
    (∃ b h rest, s.binding = some b ∧ headerLegal h b.dest.depth ∧ streamRest s = headerBits h ++ rest) ∨
      ∃ u, parseHeader readField s = .error .raised u ∧ Records BadStream u := by
  cases hb : s.binding with
  | none => exact .inr ⟨_, parseHeader_unbound hb, records_takeError (.inr rfl) _ hs.not_faulted⟩
  | some b =>
    rcases hdrParse_cases hb with ⟨h, rest, hlegal, hbits⟩ | ⟨c, info, u, hc, htrap, hu⟩
    · exact .inl ⟨b, h, rest, rfl, hlegal, hbits⟩
    · have hrec : Records BadStream (trapped c info u) :=
        records_takeError hc info (s := u) (by rw [hu]; exact hs.not_faulted)
      cases hp : parseHeader readField s with
      | ok a v =>
        have hw : Within [.pos, .hdr] (parseHeader readField) :=
          within_parseHeader (by simp) fun _ => within_bitRead (by simp) _
        have hv := hs.path (hw.ok hp) (by simp)
        have heq := Host.Outcome.next.inj ((finishUnit_of_ok hp).symm.trans htrap)
        rw [← heq] at hrec
        exact absurd hrec.1 hv.not_faulted
      | error e v =>
        have heq := Host.Outcome.next.inj ((finishUnit_of_raised hp).symm.trans htrap)
        rw [← heq] at hrec
        exact .inr ⟨v, rfl, hrec⟩

/-- The region of a header does not fit the destination (R198). -/
abbrev regionOutside (b : Binding) (x y : U16) (f : HdrFields) : Prop :=
  b.dest.w.toNat < x.toNat + f.imageWidth.toNat ∨ b.dest.h.toNat < y.toNat + f.imageHeight.toNat

theorem headerState_hdr (s : State) (x y : U16) (h : HeaderWord) : (headerState s x y h).hdr = h.fields :=
  headerStored_all (by rw [fieldStart_quant]; exact Nat.le_add_right _ _) _ _

theorem quantAt_headerState {i : Nat} (hi : i < 10) :
    quantAt (headerState s x y h) i = if i < h.fields.numSubbands.toNat then h.quant.getD i 0 else quantAt s i := by
  refine (quantAt_afterFields hi).trans ?_
  rw [fieldStart_quant]
  exact if_congr (by omega) rfl rfl

/-- Every register of the state after the header but QUANT. -/
theorem headerState_eq (s : State) (x y : U16) (h : HeaderWord) :
    headerState s x y h = { s with
      sess := .running
      pos := s.pos + (320 + 16 * h.fields.numSubbands.toNat)
      seq := ⟨.hdr, 0, 0, 0, 0⟩
      hdr := h.fields
      quant := (headerState s x y h).quant
      offx := x
      offy := y } := by
  rw [headerState, afterFields, fieldStart_quant, headerStored_all (Nat.le_add_right _ _)]
  rfl

/-- CheckDestRegion after the header (R198). -/
theorem checkDestRegion_headerState (hb : s.binding = some b) :
    checkDestRegion (headerState s x y h) =
      if regionOutside b x y h.fields then
        .error .raised (takeError .destRegion (x.toNat * 65536 + y.toNat) (headerState s x y h))
      else .ok () (headerState s x y h) := by
  have hdest : boundDest (headerState s x y h) = b.dest := by
    rw [boundDest, show (headerState s x y h).binding = some b from hb]
    rfl
  rw [checkDestRegion, op_bind_of_ok (op_get _), hdest, headerState_hdr, failIf_apply]
  rfl

/-- DECODE stops at a region that does not fit. -/
theorem exec_decode_destRegion {rest : List Bool} (hsess : s.sess = .ready) (hb : s.binding = some b)
    (hlegal : headerLegal h b.dest.depth) (hs : streamRest s = headerBits h ++ rest)
    (hout : regionOutside b x y h.fields) :
    exec (.decode x y) s = .next (trapped .destRegion (x.toNat * 65536 + y.toNat) (headerState s x y h)) := by
  refine finishUnit_of_raised ?_
  rw [decodeImage_apply, if_pos hsess, imageBody_done_eq, op_bind_of_ok (parseHeader_imageStart hb hlegal hs),
    imageTail, op_bind_of_error ((checkDestRegion_headerState hb).trans (if_pos hout))]

/-- How the part of DECODE ends that can raise: with the error of a bad stream, with DestRegion, or, past both, as its
channels end. -/
theorem imageBody_cases (x y : U16) (s : State) :
    (∃ u, imageBody (imageStart x y s) = .error .raised u ∧ Records BadStream u) ∨
      ∃ b h rest, s.binding = some b ∧ headerLegal h b.dest.depth ∧ streamRest s = headerBits h ++ rest ∧
        (regionOutside b x y h.fields ∨
          imageBody (imageStart x y s) = (do
            forFrom 0 h.fields.numChannels.toNat decodeChannel
            moveSeq .fin (h.fields.numChannels.toNat - 1) 0 0) (headerState s x y h)) := by
  rcases parseHeader_cases (atWork_imageStart x y s) with ⟨b, h, rest, hb, hlegal, hs⟩ | ⟨u, hu, hrec⟩
  · have hb : s.binding = some b := hb
    have hs : streamRest s = headerBits h ++ rest := hs
    refine .inr ⟨b, h, rest, hb, hlegal, hs, or_iff_not_imp_left.mpr fun hin => ?_⟩
    rw [imageBody, op_bind_of_ok (parseHeader_imageStart hb hlegal hs),
      op_bind_of_ok ((checkDestRegion_headerState hb).trans (if_neg hin)), op_bind_of_ok (op_get _), headerState_hdr]
  · exact .inl ⟨u, op_bind_of_error hu, hrec⟩

/-- DestRegion is recorded where the region of a legal header at POS does not fit, and only there. -/
theorem regionOutside_of_destRegion (hsess : s.sess = .ready) (h : exec (.decode x y) s = .next t)
    (hfault : t.sess = .faulted) (hcause : t.err.cause = causeCode .destRegion) :
    ∃ b h rest, s.binding = some b ∧ headerLegal h b.dest.depth ∧ streamRest s = headerBits h ++ rest ∧
      regionOutside b x y h.fields := by
  rcases exec_decode_ready hsess h with ⟨hdone, -⟩ | ⟨u, hu, rfl, -⟩
  · exact absurd (hdone.symm.trans hfault) nofun
  have hnot {C : Cause → Prop} (hC : ∀ c, C c → NotRegion c) : ¬Records C u := by
    rintro ⟨-, c, hc, -, hcode⟩
    exact hC c hc (causeCode_injective (hcode.symm.trans hcause))
  rcases imageBody_cases x y s with ⟨v, hv, hrec⟩ | ⟨b, h, rest, hb, hlegal, hs, hout | hchannels⟩
  · obtain ⟨-, rfl⟩ := EStateM.Result.error.inj (hu.symm.trans hv)
    refine absurd hrec (hnot ?_)
    rintro c hc rfl
    exact absurd hc (by decide)
  · exact ⟨b, h, rest, hb, hlegal, hs, hout⟩
  · have hend : EndsBy NotRegion (fun _ => AtWork) (imageBody (imageStart x y s)) := by
      rw [hchannels]
      exact raises_bind (raises_forFrom fun _ _ => raises_decodeChannel _) (fun _ => raises_moveSeq _ _ _ _) _ rfl
    rw [hu] at hend
    exact absurd hend (hnot fun _ => id)

end Sys2Proof.Machine
end

section
/-! SUPPORT. Operations on legal planes and levels, whatever else is in BUF: only the token reader and the expansion
raise (`44_channel_orchestrator.md` R200, `43_level.md` R171, R174). -/

namespace Sys2Proof.Machine

variable {W : List Piece} {s t u : State} {C : Cause → Prop} {p : Plane}

/-! ## Legal planes stay legal -/

/-- Buffers made before keep their length until they are dropped. -/
theorem Path.bufLen_eq (hp : Path W s t) (hd : .drop ∉ W) {id : Nat} (hid : id < s.nextBuf ∨ .create ∉ W) :
    bufLen t id = bufLen s id := by
  refine (hp.keeps (I := fun u => s.nextBuf ≤ u.nextBuf ∧ bufLen u id = bufLen s id) ?_ ⟨le_rfl, rfl⟩).2
  rintro k hk a b hw ⟨hle, hlen⟩
  cases hw with
  | element _ i e b v hb he => exact ⟨hle, (bufLen_put_element hb _ id).trans hlen⟩
  | create _ len =>
    have hne : id ≠ a.nextBuf := hid.elim (fun hlt => (hlt.trans_le hle).ne) fun hc => absurd hk hc
    exact ⟨hle.trans (Nat.le_succ _), (bufLen_put_ne hne _ a).trans hlen⟩
  | drop _ ids => exact absurd hk hd
  | logt =>
    -- the unifier is not to evaluate the 4096 entries
    generalize logTable = table
    exact ⟨hle, hlen⟩
  | _ => exact ⟨hle, hlen⟩

/-- DECODE is at work and the plane is legal. -/
structure OnPlane (p : Plane) (s : State) : Prop where
  atWork : AtWork s
  legal : planeLegal s p

/-- Filling or dequantizing a band leaves every plane legal. -/
theorem OnPlane.path (h : OnPlane p s) (hp : Path tokenPieces s t) : OnPlane p t := by
  have hlen : bufLen t = bufLen s := funext fun id =>
    hp.bufLen_eq (by simp [tokenPieces]) (.inr (by simp [tokenPieces]))
  have hplane : planeLen t p = planeLen s p := by rw [planeLen_eq, planeLen_eq, hp.frame.epoch, hlen]
  have hlegal := h.legal
  unfold planeLegal at hlegal
  rw [← hplane] at hlegal
  exact ⟨h.atWork.path hp (by simp [tokenPieces]), hlegal⟩

theorem onPlane_path (s t : State) (hp : Path tokenPieces s t) (hs : OnPlane p s) : OnPlane p t := hs.path hp

/-! ## Elements of a legal plane -/

theorem raises_planeWrite_legal {x y : Nat} (hx : x < p.width.toNat) (hy : y < p.height.toNat) (v : Coef) :
    Raises (OnPlane p) C (planeWrite p x y v) := by
  refine raises_of_answers (within_planeWrite (by simp [tokenPieces]) p x y v) onPlane_path fun s hs => ?_
  obtain ⟨id, b, hlive, hb⟩ := planeLegal_buffer hs.legal
  exact ⟨_, _, planeWrite_found hlive hx hy (planeAddr_lt hx hy hb)⟩

theorem raises_planeRead_legal {x y : Nat} (hx : x < p.width.toNat) (hy : y < p.height.toNat) :
    Raises (OnPlane p) C (planeRead p x y) := by
  refine raises_of_answers (within_planeRead p x y) onPlane_path fun s hs => ?_
  obtain ⟨id, b, hlive, hb⟩ := planeLegal_buffer hs.legal
  exact ⟨_, _, planeRead_found hlive hx hy (planeAddr_lt hx hy hb)⟩

/-- LV.DEQUANT of a legal plane in place raises nothing. -/
theorem raises_levelDequant_legal (p : Plane) (q : U16) : Raises (OnPlane p) C (levelDequant p p q) := by
  have hdescriptor : Raises (OnPlane p) C (checkDescriptor p) := by
    refine raises_of_answers (within_checkDescriptor p) onPlane_path fun s hs => ?_
    obtain ⟨id, b, hlive, -⟩ := planeLegal_buffer hs.legal
    exact ⟨_, _, checkDescriptor_found hlive⟩
  have hsize : Raises (OnPlane p) C (failIf (p.width ≠ p.width ∨ p.height ≠ p.height) .planeMismatch 0) :=
    raises_of_answers (within_failIf _ _ _) onPlane_path fun s _ => ⟨_, _, failIf_neg (by simp) _ _ s⟩
  refine raises_bind hdescriptor fun _ => raises_bind hdescriptor fun _ => raises_bind hsize fun _ => ?_
  refine raises_forFrom fun y hy => raises_forFrom fun x hx => ?_
  rw [Nat.zero_add, Nat.zero_add]
  exact raises_bind (raises_planeRead_legal hx hy) fun v => raises_planeWrite_legal hx hy _

/-- BAND.FILL over a legal plane raises what its tokens do, and where a run or a value is too long (R200). -/
theorem raises_placeToken_legal (p : Plane) (idx : Nat) :
    Raises (OnPlane p) Corrupt (placeToken p (p.width.toNat * p.height.toNat) idx) := by
  have hwrite {i : Nat} (hi : i < p.width.toNat * p.height.toNat) (v : Coef) :
      Raises (OnPlane p) Corrupt (planeWrite p (i % p.width.toNat) (i / p.width.toNat) v) :=
    raises_planeWrite_legal (Nat.mod_lt i (Nat.pos_of_lt_mul_right hi)) (Nat.div_lt_of_lt_mul hi) v
  have hread : Raises (OnPlane p) Corrupt readToken :=
    raises_readToken.keeping (within_readToken (by simp [tokenPieces])) onPlane_path fun _ => OnPlane.atWork
  have hexpand (v : Int) : Raises (OnPlane p) Corrupt (logDecode v) :=
    (raises_logDecode v).keeping (within_logDecode (by simp [tokenPieces]) v) onPlane_path fun _ => OnPlane.atWork
  refine raises_bind hread fun token => raises_bind_of_ok
    ((raises_failIf (by decide) _ _).keeping (within_failIf _ _ _) onPlane_path fun _ => OnPlane.atWork)
    fun s _ u _ hrun => ?_
  obtain ⟨hfits, -⟩ := failIf_ok hrun
  exact raises_bind (raises_forFrom fun k hk => hwrite (by omega) 0) fun _ => raises_bind (hexpand token.2) fun _ =>
    raises_bind (hwrite (by omega) _) fun _ => raises_bind (raises_modify fun _ hs => ⟨hs.atWork, hs.legal⟩) fun _ =>
      raises_pure _

theorem raises_fillFrom_legal (p : Plane) (rounds idx : Nat) :
    Raises (OnPlane p) Corrupt (fillFrom p (p.width.toNat * p.height.toNat) rounds idx) := by
  induction rounds generalizing idx with
  | zero => exact raises_pure _
  | succ rounds ih =>
    unfold fillFrom
    split
    · exact raises_bind (raises_placeToken_legal p idx) ih
    · exact raises_pure _

/-! ## LV.RECON -/

/-- LV.RECON of a legal level with all bands valid into a sink that passes its checks. -/
theorem levelRecon_answers {lv : LevelRef} {lev : Level} {dest : Sink} {clamp : Bool} (prescale : BitVec 4)
    (hc : lv.c.toNat ≤ 3) (hl : lv.l.toNat ≤ 2) (hlev : levelAt s lv.c.toNat lv.l.toNat = lev)
    (hv : allValid lev = true) (hlegal : levelLegal s lev)
    (hsink : checkSink dest (2 * lev.width.toNat) (2 * lev.height.toNat) clamp s = .ok () s) :
    ∃ t, levelRecon lv dest prescale clamp s = .ok () t ∧ Path [.element, .dest] s t := by
  have huse := (levelLegal_iff_inUse (init_of_allValid hv)).mp hlegal
  rw [levelRecon_checked hc hl hlev hv hsink, op_bind_of_ok (synth2D_inUse huse)]
  exact sinkWrites_answer hsink _

end Sys2Proof.Machine
end

section
/-! SUPPORT. DECODE of any bits after a legal header whose region fits, all levels uninitialized
(`44_channel_orchestrator.md` R201, R202): every check but those of the tokens passes, since the sizes the header gives
agree. -/

namespace Sys2Proof.Machine

variable {W : List Piece} {s t u v : State} {C : Cause → Prop} {J : Job} {c l N j k : Nat}

/-! ## The sizes of a job -/

/-- Tokens for every element of a subband: a job whose sizes alone matter is completed with a body of zeros. -/
def zeroTokens (h : HdrFields) (_c sb : Nat) : List (Nat × Int) := List.replicate (subbandSize h sb) (0, 0)

theorem bodyLegal_zeroTokens (h : HdrFields) : bodyLegal h (zeroTokens h) := by
  refine fun c _ sb _ => ⟨fun token htoken => ?_, by simp [zeroTokens, bandCoefs]⟩
  rw [List.eq_of_mem_replicate htoken]
  exact ⟨Nat.zero_le _, Nat.zero_le _⟩

/-- The registers DECODE works with after the header. -/
structure Decoding (J : Job) (u : State) : Prop where
  atWork : AtWork u
  hdr : u.hdr = J.head.fields
  quant : ∀ i < J.bands, quantAt u i = J.head.quant.getD i 0
  prescale : ∀ c l, prescaleAt u c l = J.prescale c l

theorem Decoding.path (h : Decoding J u) (hp : Path W u t) (hW : W ⊆ jobPieces) : Decoding J t := by
  have hp := hp.mono hW
  obtain ⟨hhdr, hquant⟩ := hp.frame.hdr (by simp [jobPieces, channelPieces])
  refine ⟨h.atWork.path hp (by simp [jobPieces, channelPieces]), hhdr.trans h.hdr, fun i hi => ?_, fun c l =>
    (hp.frame.prescale (by simp [jobPieces, channelPieces]) c l).trans (h.prescale c l)⟩
  rw [quantAt, hquant]
  exact h.quant i hi

theorem Decoding.channelWidth_eq (h : Decoding J u) (hJ : J.Legal) : channelWidth u = planeWidth J.head.fields := by
  rw [← planeWidth_eq (h.hdr ▸ hJ.sizes.patternWidth), h.hdr]

theorem Decoding.channelHeight_eq (h : Decoding J u) (hJ : J.Legal) :
    channelHeight u = planeHeight J.head.fields := by
  have hph : 1 ≤ u.hdr.patternHeight.toNat := h.hdr ▸ hJ.sizes.patternHeight
  rw [← planeHeight_eq hph, h.hdr]

/-- DecodeChannel's turn on a level, its sizes and its prescale read out of the registers. -/
theorem Decoding.decodeLevel_eq (hu : Decoding J u) (hJ : J.Legal) (c l : Nat) :
    decodeLevel c J.levels l u = (do
      ensureLevel c l (J.width l) (J.height l)
      forFrom (J.first l) (4 - J.first l) (fillCodedBand c l J.levels)
      forFrom 1 3 (dequantBand c l)
      J.levelTail c l) u := by
  have hwidth (l : Nat) : J.width l = levelWidth u l := by rw [levelWidth, hu.channelWidth_eq hJ]
  have hheight (l : Nat) : J.height l = levelHeight u l := by rw [levelHeight, hu.channelHeight_eq hJ]
  rw [hwidth, hheight]
  cases l with
  | zero =>
    rw [Job.levelTail, ← hu.prescale]
    rfl
  | succ k =>
    rw [Job.levelTail, ← hu.prescale, hwidth, hheight]
    rfl

/-! ## A level DECODE has made -/

/-- Level (c, l) is made on buffers `N` to `N + 3`, each as long as its bands, its first `j` bands marked valid. -/
structure LevelMade (J : Job) (c l N j : Nat) (u : State) : Prop where
  shape : LevelShape J l N j u.epoch (levelAt u c l)
  size : ∀ b < 4, ∀ e, (coefAt u (N + b) e).isSome = decide (e < J.width l * J.height l)
  below : N + 4 ≤ u.nextBuf

/-- What its bands hold is left open. -/
theorem LevelMade.holds (h : LevelMade J c l N j u) : LevelHolds J c l N 0 (fun _ _ _ => 0) u :=
  ⟨{ h.shape with valid := nofun, quant := nofun }, ⟨h.size, nofun⟩⟩

theorem LevelMade.allValid (h : LevelMade J c l N 4 u) (hJ : J.Legal) (hl : l < J.levels) :
    allValid (levelAt u c l) = true := by
  refine (allValid_iff (h.holds.legal hJ hl)).mpr ⟨h.shape.init, fun b hb => h.shape.valid b ?_⟩
  rwa [h.shape.numBands] at hb

/-- What is written elsewhere leaves a level as it was made. -/
theorem LevelMade.kept (h : LevelMade J c l N j u) (hp : Path W u t) (hd : .drop ∉ W)
    (hlevel : levelAt t c l = levelAt u c l) : LevelMade J c l N j t := by
  refine ⟨?_, fun b hb e => ?_, h.below.trans hp.frame.nextBuf_le⟩
  · rw [hlevel, hp.frame.epoch]
    exact h.shape
  · have hbelow := h.below
    rw [coefAt_isSome, hp.bufLen_eq hd (.inl (by omega)), ← coefAt_isSome]
    exact h.size b hb e

/-- DECODE, started in `u`, is at work on level (c, l), which is made, and no other level has changed. -/
structure AtLevel (J : Job) (c l N j : Nat) (u t : State) : Prop where
  decoding : Decoding J t
  made : LevelMade J c l N j t
  other : ∀ c' l', c' ≠ c ∨ l' ≠ l → levelAt t c' l' = levelAt u c' l'

theorem AtLevel.path (h : AtLevel J c l N j u s) (hp : Path W s t) (hW : W ⊆ jobPieces) (hlevel : .level ∉ W) :
    AtLevel J c l N j u t := by
  have hlevels (c' l' : Nat) : levelAt t c' l' = levelAt s c' l' := hp.frame.level hlevel c' l'
  have hd : .drop ∉ W := fun hn => absurd (hW hn) (by simp [jobPieces, channelPieces])
  exact ⟨h.decoding.path hp hW, h.made.kept hp hd (hlevels c l), fun c' l' hne =>
    (hlevels c' l').trans (h.other c' l' hne)⟩

theorem AtLevel.moveSeq (h : AtLevel J c l N j u s) (phase : Phase) (c' l' b : Nat) :
    EndsBy C (fun _ => AtLevel J c l N j u) (moveSeq phase c' l' b s) :=
  h.path (W := [.seq]) ((Write.seq s _).path List.mem_cons_self) (by simp [jobPieces, channelPieces]) (by simp)

/-- The level rewritten with a shape of its own. -/
theorem AtLevel.setLevel (h : AtLevel J c l N j u s) (hc : c < 4) (hl : l < 3) {lev : Level} {j' : Nat}
    (hshape : LevelShape J l N j' s.epoch lev) : AtLevel J c l N j' u (setLevel c l lev s) := by
  refine ⟨h.decoding.path (W := [.level]) ((Write.level s c l lev).path List.mem_cons_self)
    (by simp [jobPieces, channelPieces]), ⟨?_, h.made.size, h.made.below⟩, fun c' l' hne =>
    (levelAt_setLevel_ne hne lev s).trans (h.other c' l' hne)⟩
  rw [levelAt_setLevel_same hc hl]
  exact hshape

/-- A band of the level marked valid. -/
theorem AtLevel.levelSetValid (h : AtLevel J c l N j u s) (hc : c < 4) (hl : l < 3) (hj : j < 4)
    (hquant : 1 ≤ j → (bandAt (levelAt s c l) j).quant = J.bandQuant l j) :
    EndsBy C (fun _ => AtLevel J c l N (j + 1) u) (levelSetValid (levelRef c l) j s) := by
  refine .of_ok (a := ()) ?_ (h.setLevel hc hl (h.made.shape.setValid hj hquant))
  rw [Machine.levelSetValid, op_bind_of_ok (fetchBandLevel_ready (h.made.holds.ready hc hl hj)), storeLevel, op_modify,
    levelRef_c hc, levelRef_l c hl]

section
variable (hJ : J.Legal) (hc : c < J.channels)
include hJ hc

/-! ## The bands of a level -/

/-- A coded band filled, or an error of its tokens. -/
theorem fillCodedBand_ends (hl : l < J.levels) (hj : j < 4) (hfirst : J.first l ≤ j) (h : AtLevel J c l N j u s) :
    EndsBy Corrupt (fun _ => AtLevel J c l N (j + 1) u) (fillCodedBand c l J.levels j s) := by
  have hc4 : c < 4 := hc.trans_le hJ.sizes.channels.2
  have hl3 : l < 3 := hl.trans_le hJ.sizes.levels.2
  refine EndsBy.bind (h.moveSeq _ _ _ _) fun _ v _ hv => ?_
  have hstart := hv.setLevel hc4 hl3 (hv.made.shape.setQuant (quantAt v (subbandOf J.levels l j)))
  refine EndsBy.bind (Q := fun _ => AtLevel J c l N j u) (.of_ok (op_modify _ v) hstart) fun _ w hw hwl => ?_
  have hquant : (bandAt (levelAt w c l) j).quant = J.bandQuant l j := by
    rw [op_modify] at hw
    obtain ⟨-, rfl⟩ := EStateM.Result.ok.inj hw
    rw [levelAt_setLevel_same hc4 hl3, bandAt_setBand, if_pos ⟨rfl, hj⟩]
    exact hv.decoding.quant _ (hJ.subbandOf_lt hl hfirst hj)
  obtain ⟨p, hplane, hlegal, -⟩ := hwl.made.holds.bandPlane hJ hc hl hj
  rw [fillBand, op_bind_of_ok hplane]
  refine EndsBy.bind ((raises_fillFrom_legal p _ 0 w ⟨hwl.decoding.atWork, hlegal⟩).within
    (within_fillFrom_noLevel _ _ _ _)) fun _ t _ ht => ?_
  have hlevel := ht.2.frame.level (by simp [tokenPieces]) c l
  exact (hwl.path ht.2 (by simp [tokenPieces, jobPieces, channelPieces]) (by simp [tokenPieces])).levelSetValid hc4 hl3
    hj fun _ => by rw [hlevel, hquant]

/-- A band dequantized. -/
theorem dequantBand_ends (hl : l < J.levels) {d : Nat} (hd : d < 4) (h : AtLevel J c l N j u s) :
    EndsBy C (fun _ => AtLevel J c l N j u) (dequantBand c l d s) := by
  obtain ⟨p, hplane, hlegal, -⟩ := h.made.holds.bandPlane hJ hc hl hd
  rw [dequantBand, op_bind_of_ok hplane]
  have hwork : Raises (OnPlane p) C (do
      moveSeq .deq c l d
      let s ← get
      levelDequant p p (bandAt (levelAt s c l) d).quant) :=
    raises_bind (raises_modify fun _ hs => ⟨hs.atWork, hs.legal⟩) fun _ => raises_bind raises_get fun _ =>
      raises_levelDequant_legal p _
  have hwrites : Within [.seq, .element] (do
      moveSeq .deq c l d
      let s ← get
      levelDequant p p (bandAt (levelAt s c l) d).quant) :=
    within_bind (within_moveSeq (by simp) _ _ _ _) fun _ => within_bind within_get fun _ =>
      within_levelDequant (by simp) _ _ _
  exact ((hwork s ⟨h.decoding.atWork, hlegal⟩).within hwrites).imp (fun _ => id) fun _ t ht =>
    h.path ht.2 (by simp [jobPieces, channelPieces]) (by simp)

/-- The bands of a level filled and dequantized, then the turn's end. -/
theorem decodeLevel_ends {R : State → Prop} (hl : l < J.levels) (hu : Decoding J u)
    (hmade : ∃ v, ensureLevel c l (J.width l) (J.height l) u = .ok () v ∧ AtLevel J c l N (J.first l) u v)
    (htail : ∀ v, AtLevel J c l N 4 u v → EndsBy Corrupt (fun _ => R) (J.levelTail c l v)) :
    EndsBy Corrupt (fun _ => R) (decodeLevel c J.levels l u) := by
  obtain ⟨v, hv, hstart⟩ := hmade
  have hfirst : J.first l ≤ 1 := by
    unfold Job.first
    split_ifs <;> omega
  rw [hu.decodeLevel_eq hJ, op_bind_of_ok hv]
  have hfilled : EndsBy Corrupt (fun _ => AtLevel J c l N (J.first l + (4 - J.first l)) u)
      (forFrom (J.first l) (4 - J.first l) (fillCodedBand c l J.levels) v) :=
    .forFrom (fun k => AtLevel J c l N (J.first l + k) u)
      (fun k hk w hw => fillCodedBand_ends hJ hc hl (show J.first l + k < 4 by omega) (Nat.le_add_right _ k) hw) hstart
  rw [show J.first l + (4 - J.first l) = 4 by omega] at hfilled
  refine hfilled.bind fun _ w _ hw => EndsBy.bind (Q := fun _ => AtLevel J c l N 4 u) ?_ fun _ t _ => htail t
  exact .forFrom (fun _ => AtLevel J c l N 4 u) (fun d hd t => dequantBand_ends hJ hc hl (by omega)) hw

/-! ## The end of a turn -/

/-- The synthesis into the image: the finest level is half the channel's size. -/
theorem samplesTail_ends (h : AtLevel J c 0 N 4 u s) :
    EndsBy C (fun _ => AtLevel J c 0 N 4 u) (samplesTail c (J.prescale c 0) s) := by
  have hl : 0 < J.levels := hJ.sizes.levels.1
  have hc4 : c < 4 := hc.trans_le hJ.sizes.channels.2
  have hcr := levelRef_c hc4 0
  have hlr : (levelRef c 0).l.toNat = 0 := rfl
  refine EndsBy.bind (h.moveSeq _ _ _ _) fun _ v _ hv => ?_
  have hw : 2 * (levelAt v c 0).width.toNat = channelWidth v := by
    rw [hv.made.shape.width, hJ.two_mul_width_zero, hv.decoding.channelWidth_eq hJ]
  have hh : 2 * (levelAt v c 0).height.toNat = channelHeight v := by
    rw [hv.made.shape.height, hJ.two_mul_height_zero, hv.decoding.channelHeight_eq hJ]
  obtain ⟨t, ht, hpath⟩ := levelRecon_answers (lv := levelRef c 0) (lev := levelAt v c 0)
    (dest := .image (BitVec.ofNat 8 c)) (clamp := true) (J.prescale c 0) (by omega) (by omega) (by rw [hcr, hlr])
    (hv.made.allValid hJ hl) (hv.made.holds.legal hJ hl)
    (by rw [checkSink_image, if_neg Bool.noConfusion, if_neg (not_or.mpr ⟨not_not.mpr hw, not_not.mpr hh⟩)])
  exact .of_ok ht (hv.path hpath (by simp [jobPieces, channelPieces]) (by simp))

/-- The synthesis into the lowpass band of the next finer level, made for it: that band is twice the level's size. -/
theorem finerTail_ends (hk : k + 1 < J.levels) (h : AtLevel J c (k + 1) N 4 u s)
    (hreset : levelAt s c k = Level.reset) :
    EndsBy C (fun _ => AtLevel J c k s.nextBuf 1 s)
      (finerTail c k (J.width (k + 1)) (J.height (k + 1)) (J.prescale c (k + 1)) s) := by
  have hc4 : c < 4 := hc.trans_le hJ.sizes.channels.2
  have hk3 : k + 1 < 3 := hk.trans_le hJ.sizes.levels.2
  have hkl : k < J.levels := Nat.lt_of_succ_lt hk
  have hcr := levelRef_c hc4 (k + 1)
  have hlr := levelRef_l c hk3
  obtain ⟨v, hv, hholds, hstep, hnext, hpath⟩ := ensureLevel_fresh hJ hc4 hkl hreset fun _ _ _ => 0
  have hfine : AtLevel J c k s.nextBuf 0 s v :=
    ⟨h.decoding.path hpath (by simp [jobPieces, channelPieces]), ⟨hholds.shape, hholds.bands.size, hnext.ge⟩,
      hstep.other⟩
  obtain ⟨p, hplane, hlegal, -, hw, hh, -⟩ := hholds.bandPlane hJ hc hkl (show 0 < 4 by decide)
  rw [finerTail, hJ.two_mul_width hk, hJ.two_mul_height hk, op_bind_of_ok hv, op_bind_of_ok hplane]
  -- LV.RECON starts with SEQ moved and nothing else changed
  refine EndsBy.bind (hfine.moveSeq _ _ _ _) fun _ w hseq hwl => ?_
  have hmoved : Path [.seq] v w := (within_moveSeq List.mem_cons_self _ _ _ _).ok hseq
  have hplanes : planeLegal w p :=
    (OnPlane.path ⟨hfine.decoding.atWork, hlegal⟩ (hmoved.mono (by simp [tokenPieces]))).legal
  have hcoarse : LevelMade J c (k + 1) N 4 w :=
    (h.made.kept hpath (by simp) (hstep.other c (k + 1) (.inr (by omega)))).kept hmoved (by simp)
      (hmoved.frame.level (by simp) c (k + 1))
  obtain ⟨t, ht, htpath⟩ := levelRecon_answers (lv := levelRef c (k + 1)) (dest := .plane p) (clamp := false)
    (J.prescale c (k + 1)) (by omega) (by omega) (by rw [hcr, hlr]) (hcoarse.allValid hJ hk)
    (hcoarse.holds.legal hJ hk) (checkSink_plane (planeLegal_not_dangling hplanes)
      (by rw [hw, hcoarse.shape.width, hJ.two_mul_width hk]) (by rw [hh, hcoarse.shape.height, hJ.two_mul_height hk])
      fun _ _ => planeLegal_addr_lt hplanes)
  rw [op_bind_of_ok ht]
  exact (hwl.path htpath (by simp [jobPieces, channelPieces]) (by simp)).levelSetValid hc4 (by omega) (by decide)
    (by omega)

/-! ## Levels and channels -/

/-- What DECODE of a channel leaves of the others: their levels, and the registers it works with. -/
structure ChannelLeft (J : Job) (c : Nat) (u t : State) : Prop where
  decoding : Decoding J t
  other : ∀ c' l', c' ≠ c → levelAt t c' l' = levelAt u c' l'

theorem decodeLevels_ends (hk : k < J.levels) (hu : Decoding J u)
    (hmade : ∃ v, ensureLevel c k (J.width k) (J.height k) u = .ok () v ∧ AtLevel J c k N (J.first k) u v)
    (hfiner : ∀ l < k, levelAt u c l = Level.reset) :
    EndsBy Corrupt (fun _ => ChannelLeft J c u) (decodeLevels c J.levels (k + 1) u) := by
  induction k generalizing N u with
  | zero =>
    refine EndsBy.bind (decodeLevel_ends hJ hc hk hu hmade fun v hv => samplesTail_ends hJ hc hv) fun _ t _ ht => ?_
    exact ⟨ht.decoding, fun c' l' hne => ht.other c' l' (.inl hne)⟩
  | succ k ih =>
    have hturn : EndsBy Corrupt
        (fun _ t => ∃ v, AtLevel J c (k + 1) N 4 u v ∧ AtLevel J c k v.nextBuf 1 v t)
        (decodeLevel c J.levels (k + 1) u) :=
      decodeLevel_ends hJ hc hk hu hmade fun v hv => (finerTail_ends hJ hc hk hv
        ((hv.other c k (.inr (by omega))).trans (hfiner k (by omega)))).imp (fun _ => id) fun _ t ht => ⟨v, hv, ht⟩
    refine hturn.bind fun _ t _ ⟨v, hv, ht⟩ => ?_
    have hfirst : J.first k = 1 := if_neg (by omega)
    have hlevel (c' l' : Nat) (hne : c' ≠ c ∨ l' < k) : levelAt t c' l' = levelAt u c' l' :=
      (ht.other c' l' (by omega)).trans (hv.other c' l' (by omega))
    refine (ih (N := v.nextBuf) (by omega) ht.decoding ⟨t, ensureLevel_init ht.made.shape.init _ _, ht.decoding, ?_,
      fun _ _ _ => rfl⟩ fun l hl => ?_).imp (fun _ => id) fun _ w hw => ⟨hw.decoding, fun c' l' hne => ?_⟩
    · rw [hfirst]
      exact ht.made
    · exact (hlevel c l (.inr hl)).trans (hfiner l (by omega))
    · exact (hw.other c' l' hne).trans (hlevel c' l' (.inl hne))

/-- A channel all of whose levels are uninitialized. -/
theorem decodeChannel_ends (hu : Decoding J u) (hreset : ∀ l < J.levels, levelAt u c l = Level.reset) :
    EndsBy Corrupt (fun _ => ChannelLeft J c u) (decodeChannel c u) := by
  have hc4 : c < 4 := hc.trans_le hJ.sizes.channels.2
  have hpos : 1 ≤ J.levels := hJ.sizes.levels.1
  obtain ⟨k, hk⟩ : ∃ k, J.levels = k + 1 := ⟨J.levels - 1, by omega⟩
  have hkl : k < J.levels := by omega
  have hfirst : J.first k = 0 := if_pos (by omega)
  obtain ⟨v, hv, hholds, hstep, hnext, hpath⟩ := ensureLevel_fresh hJ hc4 hkl (hreset k hkl) fun _ _ _ => 0
  have hends := decodeLevels_ends (N := u.nextBuf) hJ hc hkl hu
    ⟨v, hv, hu.path hpath (by simp [jobPieces, channelPieces]),
      ⟨hfirst ▸ hholds.shape, hholds.bands.size, hnext.ge⟩, hstep.other⟩ fun l hl => hreset l (hl.trans hkl)
  rw [← hk] at hends
  rw [decodeChannel, op_bind_of_ok (op_get u), hu.hdr]
  exact hends

end

/-- The channels, one after the other, each found uninitialized. -/
theorem decodeChannels_ends (hJ : J.Legal) (hu : Decoding J u) (hreset : levelsReset u) :
    EndsBy Corrupt (fun _ => Decoding J) (forFrom 0 J.channels decodeChannel u) := by
  have hchannels : J.channels ≤ 4 := hJ.sizes.channels.2
  have hlevels : J.levels ≤ 3 := hJ.sizes.levels.2
  refine EndsBy.imp (C := Corrupt) (Q := fun _ v => Decoding J v ∧ ∀ c, J.channels ≤ c → c < 4 → ∀ l < 3,
    levelAt v c l = Level.reset) ?_ (fun _ => id) fun _ _ => And.left
  refine .forFrom (fun n v => Decoding J v ∧ ∀ c, n ≤ c → c < 4 → ∀ l < 3, levelAt v c l = Level.reset)
    (fun n hn v hv => ?_) ⟨hu, fun c _ => hreset c⟩
  obtain ⟨hdec, hleft⟩ := hv
  rw [Nat.zero_add]
  refine (decodeChannel_ends hJ hn hdec fun l hl => hleft n le_rfl (by omega) l (by omega)).imp (fun _ => id)
    fun _ t ht => ⟨ht.decoding, fun c hcn hc4 l hl => ?_⟩
  exact (ht.other c l (by omega)).trans (hleft c (by omega) hc4 l hl)

/-! ## DECODE -/

variable {b : Binding} {h : HeaderWord} {x y : U16}

/-- After a legal header DECODE works with its registers. -/
theorem headerState_decoding (hlegal : headerLegal h b.dest.depth) (tokens : Nat → Nat → List (Nat × Int)) :
    Decoding (jobOf s b x y h tokens) (headerState s x y h) := by
  refine ⟨rfl, headerState_hdr s x y h, fun i hi => ?_, fun _ _ => rfl⟩
  have hsizes := headerSizes hlegal.1
  have hlevels := hsizes.levels.2
  have hbands := hsizes.bands
  have hi' : i < h.fields.numSubbands.toNat := hi
  exact (quantAt_headerState (by omega)).trans (if_pos hi')

/-- The causes a correct host sees from DECODE (R222). -/
abbrev HostSees (c : Cause) : Prop := BadStream c ∨ c = .destRegion

/-- With all levels uninitialized DECODE ends in DONE or with an error a correct host sees. -/
theorem exec_decode_hostSees (hsess : s.sess = .ready) (hreset : levelsReset s) (h : exec (.decode x y) s = .next t) :
    t.sess = .done ∨ Records HostSees t := by
  rcases exec_decode_ready hsess h with ⟨hdone, -⟩ | ⟨u, hu, rfl, -⟩
  · exact .inl hdone
  refine .inr ?_
  rcases imageBody_cases x y s with ⟨v, hv, hrec⟩ | ⟨b, hd, rest, hb, hlegal, hs, hrest⟩
  · obtain ⟨-, rfl⟩ := EStateM.Result.error.inj (hu.symm.trans hv)
    exact hrec.mono fun _ => .inl
  by_cases hout : regionOutside b x y hd.fields
  · rw [exec_decode_destRegion hsess hb hlegal hs hout] at h
    rw [← Host.Outcome.next.inj h]
    exact records_takeError (.inr rfl) _ (show (headerState s x y hd).sess ≠ .faulted from nofun)
  · obtain ⟨hw, hh⟩ := not_or.mp hout
    have hJ : (jobOf s b x y hd (zeroTokens hd.fields)).Legal :=
      ⟨hlegal.1, hlegal.2, bodyLegal_zeroTokens _, Nat.le_of_not_lt hw, Nat.le_of_not_lt hh⟩
    have hend : EndsBy Corrupt (fun _ _ => True) (imageBody (imageStart x y s)) := by
      rw [hrest.resolve_left hout]
      exact (decodeChannels_ends hJ (headerState_decoding hlegal _) hreset).bind fun _ _ _ _ => trivial
    rw [hu] at hend
    exact Records.mono hend fun _ hc => .inl (.inr hc)

end Sys2Proof.Machine
end

section
/-! THE STATEMENT of `60_exceptions.md` about the errors of DECODE, settled. -/

namespace Sys2Proof.Settled
open Sys2Proof.Machine

/-- Settles O30. Past a legal header whose region fits only tokens raise (`decodeChannels_ends`); and no operation on
a channel raises DestRegion, whatever its levels (`raises_decodeChannel`). -/
theorem decodeCauses : Obligations.DecodeCauses := by
  unfold Obligations.DecodeCauses
  refine ⟨fun s ox oy hreset _ hsess _ => ?_, fun s b ox oy h rest hsess hb hlegal hs hout => ?_,
    fun s t ox oy hsess h hfault hcause => regionOutside_of_destRegion hsess h hfault hcause⟩
  · obtain ⟨t, ht⟩ := exec_answers (.decode ox oy) s
    refine ⟨t, ht, (exec_decode_hostSees hsess hreset ht).imp_right ?_⟩
    rintro ⟨hfault, c, (hkind | hkind) | rfl, hk, hcause⟩
    · exact ⟨hfault, .inl (hk.trans hkind)⟩
    · exact ⟨hfault, .inr (.inl (hk.trans hkind))⟩
    · exact ⟨hfault, .inr (.inr ⟨hk, hcause⟩)⟩
  · exact ⟨_, exec_decode_destRegion hsess hb hlegal hs hout, headerState_eq s ox oy h, fun i hi =>
      quantAt_headerState hi⟩

end Sys2Proof.Settled
end

section
/-! SUPPORT. Reset and hazards (`70_reset_and_hazards.md`): the next SESS of each host command (R253), what a host
command does in FAULTED, and the descriptors that no later instruction revives (R257). -/

namespace Sys2Proof.Machine

variable {s t : State}

/-! ## The host's commands one by one (R253) -/

theorem step_host {code : BitVec 8} {ports : Ports} {rest : List Request} (h : s.inbox = .host code ports :: rest) :
    step s = runHost code ports (setInbox rest s) := step_request h

/-- The host's five codes run their commands, and every other code is refused (R91, R236). -/
theorem runHost_cases (code : BitVec 8) (ports : Ports) (s : State) :
    (code = 0#8 ∧ runHost code ports s = exec .reset s) ∨
    (code = 1#8 ∧ runHost code ports s = exec (.construct ports.input ports.dest) s) ∨
    (code = 2#8 ∧ runHost code ports s = exec (.config ports.configC ports.configL ports.prescale) s) ∨
    (code = 3#8 ∧ runHost code ports s = exec (.decode ports.offsetX ports.offsetY) s) ∨
    (code = 4#8 ∧ runHost code ports s = exec .status s) ∨
    (4 < code.toNat ∧ runHost code ports s = .next (trapped .badCommand code.toNat s)) := by
  by_cases hc : 4 < code.toNat
  · exact .inr (.inr (.inr (.inr (.inr ⟨hc, runHost_refused hc ports s⟩))))
  · have hc' := Nat.le_of_not_lt hc
    have hcodes : code = 0#8 ∨ code = 1#8 ∨ code = 2#8 ∨ code = 3#8 ∨ code = 4#8 := by bv_omega
    rcases hcodes with rfl | rfl | rfl | rfl | rfl
    · exact .inl ⟨rfl, runHost_of_ok hc' rfl⟩
    · exact .inr (.inl ⟨rfl, runHost_of_ok hc' rfl⟩)
    · exact .inr (.inr (.inl ⟨rfl, runHost_of_ok hc' rfl⟩))
    · exact .inr (.inr (.inr (.inl ⟨rfl, runHost_of_ok hc' rfl⟩)))
    · exact .inr (.inr (.inr (.inr (.inl ⟨rfl, runHost_of_ok hc' rfl⟩))))

theorem trapped_sess (c : Cause) (info : Nat) (s : State) : (trapped c info s).sess = .faulted :=
  takeError_sess c info s

/-- An error in FAULTED leaves nothing but empty result ports (R224). -/
theorem trapped_faulted (hs : s.sess = .faulted) (c : Cause) (info : Nat) :
    trapped c info s = setResult .none s := by
  rw [trapped, takeError_faulted hs]

theorem exec_reset_sess (h : exec .reset s = .next t) : t.sess = .idle := by
  rw [← Host.Outcome.next.inj ((exec_reset s).symm.trans h)]
  rfl

theorem exec_construct_sess {input : InHandle} {dest : DestHandle} (h : exec (.construct input dest) s = .next t) :
    t.sess = if s.sess = .idle ∧ dest.w ≠ 0 ∧ dest.h ≠ 0 ∧ 1 ≤ dest.depth ∧ dest.depth ≤ 16 then .ready
      else .faulted := by
  have ht := Host.Outcome.next.inj ((exec_construct s input dest).symm.trans h)
  have hiff : destAccepted dest ↔ ¬(dest.w = 0 ∨ dest.h = 0 ∨ dest.depth < 1 ∨ 16 < dest.depth) := destAccepted_iff
  by_cases hs : s.sess = .idle
  · by_cases hd : destAccepted dest
    · rw [if_pos ⟨hs, hd⟩, ← ht, if_neg (not_not.mpr hs), if_neg (hiff.mp hd)]
      rfl
    · rw [if_neg fun hn => hd hn.2, ← ht, if_neg (not_not.mpr hs), if_pos (not_not.mp (mt hiff.mpr hd)), trapped_sess]
  · rw [if_neg fun hn => hs hn.1, ← ht, if_pos hs, trapped_sess]

theorem exec_config_sess {c l : BitVec 2} {p : BitVec 4} (h : exec (.config c l p) s = .next t) :
    t.sess = if s.sess = .ready ∧ l.toNat ≤ 2 then .ready else .faulted := by
  by_cases hs : s.sess = .ready
  · by_cases hl : l.toNat ≤ 2
    · rw [if_pos ⟨hs, hl⟩, ← Host.Outcome.next.inj ((exec_config c p hs hl).symm.trans h)]
      exact hs
    · rw [if_neg fun hn => hl hn.2,
        ← Host.Outcome.next.inj ((exec_config_levelIndex c p hs (Nat.lt_of_not_le hl)).symm.trans h), trapped_sess]
  · rw [if_neg fun hn => hs hn.1, ← Host.Outcome.next.inj ((exec_config_sessionState c l p hs).symm.trans h),
      trapped_sess]

theorem exec_decode_ready_sess {x y : U16} (hs : s.sess = .ready) (h : exec (.decode x y) s = .next t) :
    t.sess = .done ∨ t.sess = .faulted := by
  rcases exec_decode_ready hs h with ⟨hdone, -⟩ | ⟨u, -, rfl, hfault⟩
  · exact .inl hdone
  · exact .inr hfault

theorem exec_decode_refused_sess {x y : U16} (hs : s.sess ≠ .ready) (h : exec (.decode x y) s = .next t) :
    t.sess = .faulted := by
  rw [← Host.Outcome.next.inj ((exec_decode_sessionState x y hs).symm.trans h), trapped_sess]

theorem exec_status_sess (h : exec .status s = .next t) : t.sess = s.sess := by
  rw [← Host.Outcome.next.inj h]

/-- In FAULTED a host command other than RESET shows its result and does nothing else. -/
theorem runHost_faulted {code : BitVec 8} (ports : Ports) (hs : s.sess = .faulted) (hc : code ≠ 0#8) :
    ∃ r, runHost code ports s = .next (setResult r s) := by
  have hidle : s.sess ≠ .idle := by simp [hs]
  have hready : s.sess ≠ .ready := by simp [hs]
  rcases runHost_cases code ports s with ⟨hreset, -⟩ | ⟨-, hrun⟩ | ⟨-, hrun⟩ | ⟨-, hrun⟩ | ⟨-, hrun⟩ | ⟨-, hrun⟩
  · exact absurd hreset hc
  · exact ⟨_, hrun.trans (by rw [exec_construct_sessionState _ _ hidle, trapped_faulted hs])⟩
  · exact ⟨_, hrun.trans (by rw [exec_config_sessionState _ _ _ hready, trapped_faulted hs])⟩
  · exact ⟨_, hrun.trans (by rw [exec_decode_sessionState _ _ hready, trapped_faulted hs])⟩
  · exact ⟨_, hrun⟩
  · exact ⟨_, hrun.trans (by rw [trapped_faulted hs])⟩

/-! ## Descriptors that stay dead (R257) -/

/-- A descriptor from before a RESET, or one of no buffer or of a buffer that was made and is gone: NEXT_BUF has passed
its id, so no later buffer takes it. -/
def Gone (p : Plane) (s : State) : Prop :=
  p.epoch < s.epoch ∨ p.epoch = s.epoch ∧ ∀ id, p.buf = some id → id < s.nextBuf ∧ bufFind s.bufs id = none

theorem Gone.dangling {p : Plane} (h : Gone p s) : dangling s p := by
  rcases h with hlt | ⟨-, hgone⟩
  · exact .inl hlt.ne
  · exact .inr (Option.bind_eq_none_iff.mpr fun id hid => (hgone id hid).2)

theorem gone_of_dangling {p : Plane} (he : p.epoch ≤ s.epoch)
    (hmade : p.epoch = s.epoch → ∀ id, p.buf = some id → id < s.nextBuf) (hd : dangling s p) : Gone p s := by
  rcases he.lt_or_eq with hlt | heq
  · exact .inl hlt
  · exact .inr ⟨heq, fun id hid => ⟨hmade heq id hid,
      Option.bind_eq_none_iff.mp (hd.resolve_left (not_not.mpr heq)) id hid⟩⟩

/-- Dropping buffers brings none back. -/
theorem bufFind_foldl_bufDrop_none {m : List (Nat × Buffer)} {id : Nat} (h : bufFind m id = none) (ids : List Nat) :
    bufFind (ids.foldl bufDrop m) id = none := by
  by_cases hid : id ∈ ids
  · exact bufFind_foldl_bufDrop_of_mem hid m
  · rw [bufFind_foldl_bufDrop hid, h]

/-- Of the single writes only a new buffer gives BUF an id, and it is NEXT_BUF. -/
theorem gone_invariant (p : Plane) : Invariant (Gone p) where
  write k s t hw hs := by
    refine hs.imp (fun hlt => ?_) fun ⟨heq, hgone⟩ => ?_
    · rwa [(hw.path (List.mem_singleton_self k)).frame.epoch]
    refine ⟨heq.trans (hw.path (List.mem_singleton_self k)).frame.epoch.symm, fun id hid => ?_⟩
    obtain ⟨hlt, hnone⟩ := hgone id hid
    cases hw with
    | element _ i e b v hb he =>
      have hsome := bufFind_bufPut_isSome hb ⟨b.len, cellWrite b.cells e v⟩ id
      rw [hnone] at hsome
      exact ⟨hlt, Option.isNone_iff_eq_none.mp (by simpa using hsome)⟩
    | create _ len => exact ⟨Nat.lt_succ_of_lt hlt, (bufFind_bufPut_ne _ _ _ _ hlt.ne).trans hnone⟩
    | drop _ ids => exact ⟨hlt, bufFind_foldl_bufDrop_none hnone ids⟩
    | logt =>
      -- the unifier is not to evaluate the 4096 entries
      generalize logTable = table
      exact ⟨hlt, hnone⟩
    | _ => exact ⟨hlt, hnone⟩
  takeError c info s hs := by
    obtain ⟨e, x, he⟩ := takeError_rest c info s
    rw [he]
    exact hs
  setResult _ _ hs := hs
  setInbox _ _ hs := hs
  constructed _ _ _ hs := hs
  resetState _ hs := .inl (hs.elim Nat.lt_succ_of_lt fun hs => Nat.lt_succ_of_le hs.1.le)

end Sys2Proof.Machine
end

section
/-! THE STATEMENTS of `70_reset_and_hazards.md`, settled. -/

namespace Sys2Proof.Settled

open Sys2Proof.Machine

/-- Settles O10, command by command. -/
theorem sessionMachine : Obligations.SessionMachine := by
  unfold Obligations.SessionMachine
  refine ⟨fun s t rest code ports hq _ h => ?_, fun s rest code ports hq hs hc => ?_⟩
  · obtain ⟨u, hu, hstep⟩ : ∃ u, u.sess = s.sess ∧ step s = runHost code ports u := ⟨_, rfl, step_host hq⟩
    rw [hstep] at h
    rw [← hu]
    rcases runHost_cases code ports u with
      ⟨rfl, hrun⟩ | ⟨rfl, hrun⟩ | ⟨rfl, hrun⟩ | ⟨rfl, hrun⟩ | ⟨rfl, hrun⟩ | ⟨hc, hrun⟩ <;> rw [hrun] at h
    · simp [exec_reset_sess h]
    · simp [exec_construct_sess h]
    · simp [exec_config_sess h]
    · by_cases hs : u.sess = .ready
      · simpa [hs] using exec_decode_ready_sess hs h
      · simp [hs, exec_decode_refused_sess hs h]
    · simp [exec_status_sess h]
    · have hne (k : BitVec 8) (hk : k.toNat ≤ 4) : code ≠ k := fun he => Nat.not_lt.mpr hk (he ▸ hc)
      simp [← Host.Outcome.next.inj h, trapped_sess, hne]
  · rw [step_host hq]
    exact runHost_faulted (s := setInbox rest s) ports hs hc

/-- Settles O22: being gone is an invariant of every single write, and RESET takes every descriptor out of its epoch. -/
theorem deadStaysDead : Obligations.DeadStaysDead := by
  unfold Obligations.DeadStaysDead
  refine ⟨fun s t p h he => ?_, fun i s t p h he hmade hd =>
    ((gone_invariant p).exec (gone_of_dangling he hmade hd) h).dangling⟩
  have hlt : p.epoch < t.epoch := by
    rw [← Host.Outcome.next.inj ((exec_reset s).symm.trans h)]
    exact Nat.lt_succ_of_le he
  exact ⟨.inl hlt.ne, hlt⟩

end Sys2Proof.Settled
end
